-- ==== Sys2Proof/Word.lean ====
section
/-! DEFINITION. The word types of NCOM-CORE (spec/00_scope.md rules R10 to R12): every value the spec
reads bit by bit is a bit vector; a signed integer is held as its two's-complement pattern. -/

namespace Sys2Proof

/-- One byte, an unsigned number 0..255 (R10, R51). -/
abbrev Byte := BitVec 8

/-- The pattern of an `f32` (R12: IEEE 754 binary32). -/
abbrev F32 := BitVec 32

/-- The pattern of an `f64` (R12); the block only moves it. -/
abbrev F64 := BitVec 64

/-- The two's-complement pattern of an `i32` (R11). -/
abbrev I32 := BitVec 32

/-- An unsigned 16-bit field (R53). -/
abbrev U16 := BitVec 16

/-- The two's-complement pattern of an `i16` (R53). -/
abbrev I16 := BitVec 16

end Sys2Proof
end

