-- ==== Sys2Proof/Config.lean ====
section
/-! DEFINITION. What an instance of NCOM-CORE fixes and what the spec leaves free: the names of the
navigation-status policies and of the numerics records, and the free values (constants without a
body, of which nothing can be proved). The straps, `SB_MAX` and the choice of `NUM` stand in `State`
(rules R9, R22, R260). -/

namespace Sys2Proof

/-- The values of the strap `NAV_POLICY` (R9, R22): what `PKT.DEC` does with a navigation status
outside `NAV_ALLOWED` and not 11. -/
inductive NavPolicy where
  | reject
  | acceptA
  | routeB
  deriving DecidableEq, Repr

/-- Which numerics record `NUM` an instance is built with (R9, R13, R279): the reference numerics, the
spec's default, or any other record, told apart by a number. -/
inductive NumSel where
  | reference
  | other (instanceNo : Nat)
  deriving DecidableEq, Repr

namespace Config

/-- FREE VALUE (R120, U1): the integer an `ENC24` writes when `QUANT` answers `OUT`; one fresh value a
draw, indexed by the draw's number. Log entry 3. -/
opaque freeI32 : Nat → I32

/-- FREE VALUE: the pattern a binary32 operation of the reference numerics answers when its result is
not a number; the spec states no pattern. Log entry 8. -/
opaque nanPattern : F32 → F32 → F32

/-- FREE VALUE: `NUM.i2f` of the reference numerics outside `|n| ≤ 2^24`, where R13 states nothing.
Log entry 9. -/
opaque i2fWide : I32 → F32

/-- The four functions of a numerics record other than the reference one (R13); nothing is known of
them but what a statement assumes (`NumRec.Admissible`, R119). Log entry 2. -/
opaque otherDiv : Nat → F32 → F32 → F32
/-- See `otherDiv`. -/
opaque otherRint : Nat → F32 → Option I32
/-- See `otherDiv`. -/
opaque otherI2f : Nat → I32 → F32
/-- See `otherDiv`. -/
opaque otherMul : Nat → F32 → F32 → F32

end Config
end Sys2Proof
end

