-- ==== Sys2Proof/Machine/Format.lean ====
section
/-! DEFINITION. The constants the packet format fixes (spec/00_scope.md rule R8) and the status codes
(spec/60_exceptions.md rule R231). -/

namespace Sys2Proof.Machine

/-- `PKT_LEN` (R8): a packet is exactly 72 bytes. -/
def pktLen : Nat := 72
/-- `SYNC` (R8). -/
def syncByte : Byte := 0xE7
/-- `OFF_NAV` (R8). -/
def offNav : Nat := 21
/-- `OFF_CHK1` (R8). -/
def offChk1 : Nat := 22
/-- `OFF_CHK2` (R8). -/
def offChk2 : Nat := 61
/-- `OFF_CHK3` (R8). -/
def offChk3 : Nat := 71
/-- `OFF_TAG` (R8). -/
def offTag : Nat := 62
/-- `OFF_PAY` (R8). -/
def offPay : Nat := 63
/-- `PAY_LEN` (R8). -/
def payLen : Nat := 8
/-- `NAV_B` (R8): the navigation status that selects structure-B. -/
def navB : Byte := 11
/-- `NAV_ALLOWED` (R8, R90): the navigation statuses that select structure-A. -/
def navAllowed : List Byte := [0, 1, 2, 3, 4, 5, 6, 7, 10, 20, 21, 22]
/-- `TAG_NONE` (R8): the tag an encode writes for "no status channel". -/
def tagNone : Byte := 0xFF
/-- `NUM_VARIANTS` (R8): tags 0 to 9. -/
def numVariants : Nat := 10
/-- `AGE_LIMIT` (R8): an accuracy is valid only while `age < 150`. -/
def ageLimit : Nat := 150
/-- `DEV_INVALID` (R8). -/
def devInvalid : Byte := 0xFF
/-- `TIME_MOD` (R8). -/
def timeMod : Nat := 60000
/-- `S_ACC` (R8), 1e-4. -/
def sAcc : F32 := 0x38D1B717
/-- `S_ANG` (R8), 1e-5. -/
def sAng : F32 := 0x3727C5AC
/-- `S_VEL` (R8), 1e-4. -/
def sVel : F32 := 0x38D1B717
/-- `S_ORI` (R8), 1e-6. -/
def sOri : F32 := 0x358637BD

/-- Status code `OK` (R231). -/
def statusOk : BitVec 3 := 0
/-- Status code `ERR_SHORT` (R231, R232). -/
def statusErrShort : BitVec 3 := 1
/-- Status code `ERR_SYNC` (R231, R233). -/
def statusErrSync : BitVec 3 := 2
/-- Status code `ERR_NAV` (R231, R234). -/
def statusErrNav : BitVec 3 := 3
/-- Status code `FAULTED` (R231, R237). -/
def statusFaulted : BitVec 3 := 7

/-- The strap `NAV_POLICY` as its 2-bit code (R22): 0 `REJECT`, 1 `ACCEPT_A`, 2 `ROUTE_B`, 3 reserved and
treated as `REJECT`. -/
def navPolicyOf (code : BitVec 2) : NavPolicy :=
  if code = 1 then .acceptA else if code = 2 then .routeB else .reject

end Sys2Proof.Machine
end

