-- ==== Sys2Proof/Syntax.lean ====
section
/-! DEFINITION. The operations of NCOM-CORE, one constructor for each mnemonic of spec/opcode_table.json
(the six ILLEGAL rows and the twelve A.DEC rows carry the matched value), and the selectors that pick
them (spec/30_encoding.md rules R90, R92, R95 to R97, R100). -/

namespace Sys2Proof

/-- The two places where byte 0 of a candidate is tested against the sync byte (R70: the envelope check
of `PKT.DEC`, and the candidate test of `SCAN.STEP`, R211). -/
inductive SyncSite where
  | envelope
  | candidate
  deriving DecidableEq, Repr

/-- One operation. The first eleven are the rows a command code selects; the others are the
sub-operations of R97, each with the same meaning as inside the command that invokes it. -/
inductive Instr where
  /-- `ENC24` (R114). -/
  | enc24
  /-- `DEC24` (R116). -/
  | dec24
  /-- `PKT.ENC` (R132). -/
  | pktEnc
  /-- `PKT.DEC` (R134). -/
  | pktDec
  /-- `SC.ENC` (R172). -/
  | scEnc
  /-- `SC.DEC` (R173). -/
  | scDec
  /-- `SC.LOOKUP` (R170). -/
  | scLookup
  /-- `SCAN` (R214). -/
  | scan
  /-- `I24.PACK` (R110). -/
  | i24Pack
  /-- `I24.UNPACK` (R111). -/
  | i24Unpack
  /-- `ILLEGAL` (R96): the codes 0x0 and 0xB to 0xF. -/
  | illegal (code : BitVec 4)
  /-- `B.DEC` (R154), selected by navigation status 11. -/
  | bDec
  /-- `A.DEC` (R152), selected by a navigation status of `NAV_ALLOWED`. -/
  | aDec (nav : Byte)
  /-- `ROUTE.OUTOFSET` (R135): any other navigation status, resolved by `NAV_POLICY`. -/
  | routeOutOfSet (nav : Byte)
  /-- `SC0.DEC` (R175). -/
  | sc0Dec
  /-- `SC0.ENC` (R174). -/
  | sc0Enc
  /-- `SC1.DEC` (R177). -/
  | sc1Dec
  /-- `SC1.ENC` (R176). -/
  | sc1Enc
  /-- `SC2.DEC` (R179). -/
  | sc2Dec
  /-- `SC2.ENC` (R178). -/
  | sc2Enc
  /-- `SC3.DEC` (R181). -/
  | sc3Dec
  /-- `SC3.ENC` (R180). -/
  | sc3Enc
  /-- `SC4.DEC` (R183). -/
  | sc4Dec
  /-- `SC4.ENC` (R182). -/
  | sc4Enc
  /-- `SC5.DEC` (R185). -/
  | sc5Dec
  /-- `SC5.ENC` (R184). -/
  | sc5Enc
  /-- `SC6.DEC` (R187). -/
  | sc6Dec
  /-- `SC6.ENC` (R186). -/
  | sc6Enc
  /-- `SC7.DEC` (R189). -/
  | sc7Dec
  /-- `SC7.ENC` (R188). -/
  | sc7Enc
  /-- `SC8.DEC` (R191). -/
  | sc8Dec
  /-- `SC8.ENC` (R190). -/
  | sc8Enc
  /-- `SC9.DEC` (R193). -/
  | sc9Dec
  /-- `SC9.ENC` (R192). -/
  | sc9Enc
  /-- `SCNONE.DEC` (R195): a tag byte in 10..255. -/
  | scNoneDec (tag : Byte)
  /-- `SCNONE.ENC` (R194). -/
  | scNoneEnc
  /-- `CSUM` (R130) over offsets `lo..hi` of the packet buffer. -/
  | csum (lo hi : Nat)
  /-- `QUANT` (R113). -/
  | quant
  /-- `DEQUANT` (R115). -/
  | dequant
  /-- `ROUTE` (R135) of the packet buffer's byte 21. -/
  | route
  /-- `A.ENC` (R150). -/
  | aEnc
  /-- `B.ENC` (R153). -/
  | bEnc
  /-- `SCAN.INIT` (R210). -/
  | scanInit
  /-- `SCAN.STEP` (R213). -/
  | scanStep
  /-- `SYNC` (R70): byte 0 tested against the sync byte. -/
  | sync (site : SyncSite)
  deriving DecidableEq, Repr

/-- The sub-operations to which the opcode table gives no code (format `SUBOP`); a rule invokes them by
name. `csum` carries the range it sums. -/
inductive SubOp where
  | csum (lo hi : Nat)
  | quant
  | dequant
  | route
  | aEnc
  | bEnc
  | scanInit
  | scanStep
  deriving DecidableEq, Repr

/-- What selects an operation: a value at one of the dispatch points of R100, written as the opcode
table's format column names it. Only `cmd` is the host's (R97). -/
inductive Selector where
  /-- Format `CMD`: the 4-bit command code `CMD.OP` (R95). -/
  | cmd (op : BitVec 4)
  /-- Format `NAV`: the navigation-status byte `PB[21]` (R90). -/
  | nav (byte : Byte)
  /-- Format `TAG`, decode rows: the tag byte `PB[62]` or `SC.TAGBYTE` (R92). -/
  | tagDec (byte : Byte)
  /-- Format `TAG`, encode rows: the tag byte that the encode writes (R172, R194). -/
  | tagEnc (byte : Byte)
  /-- Format `BYTE0`: the byte tested against the sync byte (R70). -/
  | byte0 (site : SyncSite) (byte : Byte)
  /-- Format `SUBOP`: no code, invoked by name (R97). -/
  | sub (op : SubOp)
  deriving DecidableEq, Repr

end Sys2Proof
end

