-- ==== Sys2Proof/WellFormed.lean ====
section
/-! DEFINITION. Which operand values of an operation its row of the opcode table admits. -/

namespace Sys2Proof

/-- The operands of an operation lie in the range its row of spec/opcode_table.json matches: R96 for
ILLEGAL, R90 for the byte-21 rows, R93 for SCNONE.DEC, R130 (offsets `lo ≤ hi` inside the buffer) for
CSUM; every other operation has no operand that could be wrong. -/
def Instr.wellFormed : Instr → Bool
  | .illegal code => code == 0 || 0xB ≤ code.toNat
  | .aDec nav => Machine.navAllowed.contains nav
  | .routeOutOfSet nav => nav != Machine.navB && !Machine.navAllowed.contains nav
  | .scNoneDec tag => 10 ≤ tag.toNat
  | .csum lo hi => lo ≤ hi && hi < Machine.pktLen
  | .enc24 | .dec24 | .pktEnc | .pktDec | .scEnc | .scDec | .scLookup | .scan | .i24Pack
  | .i24Unpack | .bDec | .sc0Dec | .sc0Enc | .sc1Dec | .sc1Enc | .sc2Dec | .sc2Enc | .sc3Dec
  | .sc3Enc | .sc4Dec | .sc4Enc | .sc5Dec | .sc5Enc | .sc6Dec | .sc6Enc | .sc7Dec | .sc7Enc
  | .sc8Dec | .sc8Enc | .sc9Dec | .sc9Enc | .scNoneEnc | .quant | .dequant | .route | .aEnc
  | .bEnc | .scanInit | .scanStep | .sync _ => true

end Sys2Proof
end

