-- ==== Sys2Proof/Decode.lean ====
section
/-! DEFINITION. The decoder, total on every selector and rejecting by name, the encoder, and the reading
of an opcode-table word (spec/30_encoding.md rules R90, R92, R95, R96, R97, R100). -/

namespace Sys2Proof

/-- Why a selector is no row of the opcode table. -/
inductive DecodeReject where
  /-- An encode writes no tag in 10..254 (R93). -/
  | noEncodeTag
  /-- Byte 0 is not the sync byte (R70, R100). -/
  | notSync
  /-- A checksum range that is not `lo ≤ hi` inside the packet buffer (R130). -/
  | checksumRange
  deriving DecidableEq, Repr

/-- The command rows (R95); every code they do not match is R96's. -/
def decodeCmd (op : BitVec 4) : Instr :=
  match op.toNat with
  | 0x1 => .enc24
  | 0x2 => .dec24
  | 0x3 => .pktEnc
  | 0x4 => .pktDec
  | 0x5 => .scEnc
  | 0x6 => .scDec
  | 0x7 => .scLookup
  | 0x8 => .scan
  | 0x9 => .i24Pack
  | 0xA => .i24Unpack
  | _ => .illegal op

/-- The byte-21 rows (R90, R100 (2)). -/
def decodeNav (nav : Byte) : Instr :=
  if nav = Machine.navB then .bDec
  else if Machine.navAllowed.contains nav then .aDec nav
  else .routeOutOfSet nav

/-- The byte-62 rows of a decode (R92, R93, R100 (3)). -/
def decodeTag (tag : Byte) : Instr :=
  match tag.toNat with
  | 0 => .sc0Dec
  | 1 => .sc1Dec
  | 2 => .sc2Dec
  | 3 => .sc3Dec
  | 4 => .sc4Dec
  | 5 => .sc5Dec
  | 6 => .sc6Dec
  | 7 => .sc7Dec
  | 8 => .sc8Dec
  | 9 => .sc9Dec
  | _ => .scNoneDec tag

/-- The tag rows of an encode, by the tag byte they write (R172, R194); tags 10 to 254 are never written
(R93). -/
def decodeEncTag (tag : Byte) : Option Instr :=
  match tag.toNat with
  | 0 => some .sc0Enc
  | 1 => some .sc1Enc
  | 2 => some .sc2Enc
  | 3 => some .sc3Enc
  | 4 => some .sc4Enc
  | 5 => some .sc5Enc
  | 6 => some .sc6Enc
  | 7 => some .sc7Enc
  | 8 => some .sc8Enc
  | 9 => some .sc9Enc
  | 255 => some .scNoneEnc
  | _ => none

/-- The rows without a code (format `SUBOP`, R97). -/
def decodeSub : SubOp → Except DecodeReject Instr
  | .csum lo hi => if lo ≤ hi ∧ hi < Machine.pktLen then .ok (.csum lo hi) else .error .checksumRange
  | .quant => .ok .quant
  | .dequant => .ok .dequant
  | .route => .ok .route
  | .aEnc => .ok .aEnc
  | .bEnc => .ok .bEnc
  | .scanInit => .ok .scanInit
  | .scanStep => .ok .scanStep

/-- The operation a selector picks. -/
def decode : Selector → Except DecodeReject Instr
  | .cmd op => .ok (decodeCmd op)
  | .nav b => .ok (decodeNav b)
  | .tagDec b => .ok (decodeTag b)
  | .tagEnc b => match decodeEncTag b with
    | some i => .ok i
    | none => .error .noEncodeTag
  | .byte0 site b => if b = Machine.syncByte then .ok (.sync site) else .error .notSync
  | .sub op => decodeSub op

/-- The selector of an operation, from the match column of the opcode table. -/
def encode : Instr → Selector
  | .enc24 => .cmd 0x1
  | .dec24 => .cmd 0x2
  | .pktEnc => .cmd 0x3
  | .pktDec => .cmd 0x4
  | .scEnc => .cmd 0x5
  | .scDec => .cmd 0x6
  | .scLookup => .cmd 0x7
  | .scan => .cmd 0x8
  | .i24Pack => .cmd 0x9
  | .i24Unpack => .cmd 0xA
  | .illegal code => .cmd code
  | .bDec => .nav 0x0B
  | .aDec nav => .nav nav
  | .routeOutOfSet nav => .nav nav
  | .sc0Dec => .tagDec 0x00
  | .sc0Enc => .tagEnc 0x00
  | .sc1Dec => .tagDec 0x01
  | .sc1Enc => .tagEnc 0x01
  | .sc2Dec => .tagDec 0x02
  | .sc2Enc => .tagEnc 0x02
  | .sc3Dec => .tagDec 0x03
  | .sc3Enc => .tagEnc 0x03
  | .sc4Dec => .tagDec 0x04
  | .sc4Enc => .tagEnc 0x04
  | .sc5Dec => .tagDec 0x05
  | .sc5Enc => .tagEnc 0x05
  | .sc6Dec => .tagDec 0x06
  | .sc6Enc => .tagEnc 0x06
  | .sc7Dec => .tagDec 0x07
  | .sc7Enc => .tagEnc 0x07
  | .sc8Dec => .tagDec 0x08
  | .sc8Enc => .tagEnc 0x08
  | .sc9Dec => .tagDec 0x09
  | .sc9Enc => .tagEnc 0x09
  | .scNoneDec tag => .tagDec tag
  | .scNoneEnc => .tagEnc 0xFF
  | .csum lo hi => .sub (.csum lo hi)
  | .quant => .sub .quant
  | .dequant => .sub .dequant
  | .route => .sub .route
  | .aEnc => .sub .aEnc
  | .bEnc => .sub .bEnc
  | .scanInit => .sub .scanInit
  | .scanStep => .sub .scanStep
  | .sync site => .byte0 site 0xE7

/-- The selector an opcode-table word stands for when only its bits are known. The table's formats
overlap as bare numbers, so the order of R100 decides: a 4-bit value is a command code; above that,
0xE7 is the sync byte, 0xFF the "no status channel" tag, any other byte a navigation status. Log
entry 22. -/
def selectorOfTableWord (nbits w : Nat) : Option Selector :=
  if w < 16 then some (.cmd (BitVec.ofNat 4 w))
  else if nbits ≤ 4 ∨ 256 ≤ w then none
  else if w = 0xE7 then some (.byte0 .envelope (BitVec.ofNat 8 w))
  else if w = 0xFF then some (.tagEnc (BitVec.ofNat 8 w))
  else some (.nav (BitVec.ofNat 8 w))

/-- The instruction the decoder reads from an opcode-table word. -/
def decodeTableWord (nbits w : Nat) : Option Instr :=
  match selectorOfTableWord nbits w with
  | some sel => (decode sel).toOption
  | none => none

end Sys2Proof
end

