-- ==== Sys2Proof/Machine/Bytes.lean ====
section
/-! DEFINITION. Byte order, byte slices and the checksum primitive over a buffer's bytes
(spec/20_memory.md rules R50 to R54, spec/41_envelope.md rule R130). A buffer is the list of its bytes,
offset 0 first. -/

namespace Sys2Proof.Machine

/-- The unsigned number that bytes form, the first the least significant (R52). -/
def leNat : List Byte → Nat
  | [] => 0
  | b :: r => b.toNat + 256 * leNat r

/-- The `n` low-order bytes of `v`, least significant first (R52). -/
def leBytes : Nat → Nat → List Byte
  | 0, _ => []
  | n + 1, v => BitVec.ofNat 8 v :: leBytes n (v / 256)

/-- The `n` bytes at offsets `off..off+n-1`. -/
def slice (b : List Byte) (off n : Nat) : List Byte := (b.drop off).take n

/-- `MemRead(B+off, n)` (R14, R52). -/
def memRead (b : List Byte) (off n : Nat) : Nat := leNat (slice b off n)

/-- `B[off]`, that is `MemRead(B+off, 1)` (R14). -/
def byteAt (b : List Byte) (off : Nat) : Byte := BitVec.ofNat 8 (memRead b off 1)

/-- `MemRead(B+off, 2)` as a 16-bit field (R53). -/
def read16 (b : List Byte) (off : Nat) : BitVec 16 := BitVec.ofNat 16 (memRead b off 2)

/-- `MemRead(B+off, 4)` as a 32-bit field (R53). -/
def read32 (b : List Byte) (off : Nat) : BitVec 32 := BitVec.ofNat 32 (memRead b off 4)

/-- `MemRead(B+off, 8)` as a 64-bit field (R53). -/
def read64 (b : List Byte) (off : Nat) : BitVec 64 := BitVec.ofNat 64 (memRead b off 8)

/-- The sum of bytes as unsigned numbers, over the natural numbers (R130). -/
def byteSum : List Byte → Nat
  | [] => 0
  | b :: r => b.toNat + byteSum r

/-- The unsigned byte-sum mod 256 (R130). -/
def sum8 (b : List Byte) : Byte := BitVec.ofNat 8 (byteSum b)

/-- `CSUM(B, lo, hi)` (R130). -/
def csumOf (b : List Byte) (lo hi : Nat) : Byte := sum8 (slice b lo (hi + 1 - lo))

end Sys2Proof.Machine
end

