-- ==== Sys2Proof/Machine/State.lean ====
section
/-! DEFINITION. The state of NCOM-CORE as plain data: the records of the data model, the register view,
the buffers, the straps, the host's script, the reasons a step can stop, and the state after reset
(spec/10_state.md).

A register that "holds no value" (R36) is `none`; that is the spec's own reset state of every operand
and result register (R38, R260), and what a command does then is R237 (d). Log entry 4. -/

namespace Sys2Proof.Machine

/-- `PK.kind` (R27, R33): structure-A or structure-B. -/
inductive Kind where
  | A
  | B
  deriving DecidableEq, Repr

/-- The answer of `ROUTE` (R135). -/
inductive Route where
  | A
  | B
  | reject
  deriving DecidableEq, Repr

/-- The outcome of one `SCAN.STEP` (R213). -/
inductive ScanOutcome where
  | skip
  | accept
  | reject
  | stopEnd
  | stopShort
  deriving DecidableEq, Repr

/-- The errors a `raise` names (R232, R233, R234, R237). -/
inductive Err where
  | structuralShort
  | structuralSync
  | unrecognizedNav
  | preconditionViolation
  deriving DecidableEq, Repr

/-- One innovation channel of tag 1 (R31, R88): a 7-bit magnitude and a stored validity bit. -/
structure Innov where
  mag : BitVec 7
  valid : Bool
  deriving DecidableEq, Repr

/-- Tag 0: full time and modes (R31). -/
structure Sc0 where
  fullTime : I32
  numSatellites : Byte
  positionMode : Byte
  velocityMode : Byte
  orientationMode : Byte
  deriving DecidableEq, Repr

/-- Tag 1: innovations (R31). -/
structure Sc1 where
  innovPosX : Innov
  innovPosY : Innov
  innovPosZ : Innov
  innovVelX : Innov
  innovVelY : Innov
  innovVelZ : Innov
  innovPitch : Innov
  innovHeading : Innov
  deriving DecidableEq, Repr

/-- Tag 2: primary receiver link health (R31). -/
structure Sc2 where
  charsReceived : U16
  packetsReceived : U16
  charsNotUnderstood : U16
  packetsNotUsed : U16
  deriving DecidableEq, Repr

/-- Tag 3: position accuracy, stored fields (R31). -/
structure Sc3 where
  accNorth : U16
  accEast : U16
  accDown : U16
  age : Byte
  deviceStatus : Byte
  deriving DecidableEq, Repr

/-- Tag 4: velocity accuracy, stored fields (R31). -/
structure Sc4 where
  velAcc0 : U16
  velAcc1 : U16
  velAcc2 : U16
  age : Byte
  processingMethod : Byte
  deriving DecidableEq, Repr

/-- Tag 5: orientation accuracy, stored fields (R31). -/
structure Sc5 where
  accHeading : U16
  accPitch : U16
  accRoll : U16
  age : Byte
  reserved : Byte
  deriving DecidableEq, Repr

/-- The fields tags 6 to 9 share (R31): three signed values, an age, two 4-bit counters. -/
structure ScVals where
  val0 : I16
  val1 : I16
  val2 : I16
  age : Byte
  countL1 : BitVec 4
  countL2 : BitVec 4
  deriving DecidableEq, Repr

/-- `StatusChannelVariant` (R31): exactly ten variants, with their stored fields. The derived flags are
functions of them (`Variant.accValid`, `Variant.deviceStatusValid`, R32, R34). Log entry 16. -/
inductive Variant where
  | sc0 (f : Sc0)
  | sc1 (f : Sc1)
  | sc2 (f : Sc2)
  | sc3 (f : Sc3)
  | sc4 (f : Sc4)
  | sc5 (f : Sc5)
  | sc6 (f : ScVals)
  | sc7 (f : ScVals)
  | sc8 (f : ScVals)
  | sc9 (f : ScVals)
  deriving DecidableEq, Repr

/-- The `StructureA` record (R28). -/
structure StructureA where
  navigationStatus : Byte
  time : U16
  accelerationX : F32
  accelerationY : F32
  accelerationZ : F32
  angularRateX : F32
  angularRateY : F32
  angularRateZ : F32
  checksum1Valid : Bool
  latitude : F64
  longitude : F64
  altitude : F32
  velocityNorth : F32
  velocityEast : F32
  velocityDown : F32
  heading : F32
  pitch : F32
  roll : F32
  checksum2Valid : Bool
  statusChannel : Option Variant
  checksum3Valid : Bool
  deriving DecidableEq, Repr

/-- The `StructureB` record (R29). -/
structure StructureB where
  navigationStatus : Byte
  checksum3Valid : Bool
  deriving DecidableEq, Repr

/-- `Packet` (R27), a sum of the two structures. -/
inductive Packet where
  | structureA (a : StructureA)
  | structureB (b : StructureB)
  deriving DecidableEq, Repr

/-- The registers `FX.*` (R33). -/
structure FxRegs where
  v : Option F32 := none
  s : Option F32 := none
  n : Option I32 := none
  b0 : Option Byte := none
  b1 : Option Byte := none
  b2 : Option Byte := none
  deriving DecidableEq, Repr

/-- The registers `PK.*` (R28, R33), without `PK.statusChannel`, which is the `SC.*` registers. -/
structure PkRegs where
  kind : Option Kind := none
  navigationStatus : Option Byte := none
  time : Option U16 := none
  accelerationX : Option F32 := none
  accelerationY : Option F32 := none
  accelerationZ : Option F32 := none
  angularRateX : Option F32 := none
  angularRateY : Option F32 := none
  angularRateZ : Option F32 := none
  checksum1Valid : Option Bool := none
  latitude : Option F64 := none
  longitude : Option F64 := none
  altitude : Option F32 := none
  velocityNorth : Option F32 := none
  velocityEast : Option F32 := none
  velocityDown : Option F32 := none
  heading : Option F32 := none
  pitch : Option F32 := none
  roll : Option F32 := none
  checksum2Valid : Option Bool := none
  checksum3Valid : Option Bool := none
  deriving DecidableEq, Repr

/-- The registers `SC.*` (R31, R32, R33) but for `SC.TAGBYTE`. A name that several variants share
(`age`, `accValid`, `val0`, ...) is one register. -/
structure ScRegs where
  present : Option Bool := none
  tag : Option (BitVec 4) := none
  fullTime : Option I32 := none
  numSatellites : Option Byte := none
  positionMode : Option Byte := none
  velocityMode : Option Byte := none
  orientationMode : Option Byte := none
  innovPosX : Option Innov := none
  innovPosY : Option Innov := none
  innovPosZ : Option Innov := none
  innovVelX : Option Innov := none
  innovVelY : Option Innov := none
  innovVelZ : Option Innov := none
  innovPitch : Option Innov := none
  innovHeading : Option Innov := none
  charsReceived : Option U16 := none
  packetsReceived : Option U16 := none
  charsNotUnderstood : Option U16 := none
  packetsNotUsed : Option U16 := none
  accNorth : Option U16 := none
  accEast : Option U16 := none
  accDown : Option U16 := none
  age : Option Byte := none
  deviceStatus : Option Byte := none
  accValid : Option Bool := none
  deviceStatusValid : Option Bool := none
  velAcc0 : Option U16 := none
  velAcc1 : Option U16 := none
  velAcc2 : Option U16 := none
  processingMethod : Option Byte := none
  accHeading : Option U16 := none
  accPitch : Option U16 := none
  accRoll : Option U16 := none
  reserved : Option Byte := none
  val0 : Option I16 := none
  val1 : Option I16 := none
  val2 : Option I16 := none
  countL1 : Option (BitVec 4) := none
  countL2 : Option (BitVec 4) := none
  deriving DecidableEq, Repr

/-- One buffer: its bytes that hold a value, by offset, offsets strictly rising. A byte that is not
listed holds no value (R36). Log entry 18. -/
abbrev Memory := List Host.Cell

/-- The canonical form of a buffer: offsets strictly rising. An unlisted byte holds no value, so no
listed byte can equal what an unlisted one reads as. -/
abbrev Memory.wf (m : Memory) : Prop := m.Pairwise (fun x y => x.1 < y.1)

/-- What the host writes between two commands (R37): registers (those that are `some`), or a whole
buffer, or a length. Log entry 17. -/
inductive HostWrite where
  | fx (r : FxRegs)
  | pk (r : PkRegs)
  | sc (r : ScRegs)
  | scTagByte (b : Byte)
  | sp (bytes : List Byte)
  | pb (bytes : List Byte)
  | pbLen (n : Nat)
  | sb (bytes : List Byte)
  | sbLen (n : Nat)
  deriving DecidableEq, Repr

/-- What the host does between two commands. Log entry 1. -/
inductive HostEvent where
  /-- Operands written (R263). -/
  | write (w : HostWrite)
  /-- A command issued: `CMD.OP` written and the block started (R95). A selector that is no command code
  is a sub-operation run on its own (log entry 7). -/
  | issue (sel : Selector)
  /-- Reset, which samples the two straps (R22, R260, R261). -/
  | reset (navPolicy : BitVec 2) (chkRejectMask : BitVec 3)
  deriving DecidableEq, Repr

/-- The whole state (R20, R33, R38). -/
structure State where
  /-- `FAULT` (R23). -/
  fault : Bool
  /-- `STATUS` (R24). -/
  status : BitVec 3
  /-- `SCAN_POS` (R25). -/
  scanPos : Nat
  /-- `OUTQ` (R26). -/
  outq : List Packet
  /-- `CMD.OP` (R33, R95). -/
  cmdOp : Option (BitVec 4)
  /-- `FX.*` (R33). -/
  fx : FxRegs
  /-- `PK.*` (R28). -/
  pk : PkRegs
  /-- `SC.*` (R31). -/
  sc : ScRegs
  /-- `SC.TAGBYTE` (R33). -/
  scTagByte : Option Byte
  /-- `SP` (R50). -/
  sp : Memory
  /-- `PB` (R50). -/
  pb : Memory
  /-- `PB_LEN` (R33). -/
  pbLen : Option Nat
  /-- `SB` (R50). -/
  sb : Memory
  /-- `SB_LEN` (R33). -/
  sbLen : Option Nat
  /-- The strap `NAV_POLICY` as its 2-bit code (R22). -/
  navPolicy : BitVec 2
  /-- The strap `CHK_REJECT_MASK` (R22). -/
  chkRejectMask : BitVec 3
  /-- `SB_MAX` (R9), `none` where the instance takes it unbounded (D6). -/
  sbMax : Option Nat
  /-- `NUM` (R9, R13). -/
  num : NumSel
  /-- The model's own: what a `CSUM` run on its own answered. -/
  csumOut : Option Byte
  /-- The model's own: what a `ROUTE` run on its own answered. -/
  routeOut : Option Route
  /-- The model's own: what a `SYNC` test run on its own answered. -/
  syncOut : Option Bool
  /-- The model's own: the outcome of the last `SCAN.STEP`. -/
  scanOut : Option ScanOutcome
  /-- The model's own: how many free values have been drawn. -/
  freeCtr : Nat
  /-- The model's own: the host's events still to come, the next one first. -/
  host : List HostEvent
  deriving DecidableEq, Repr

/-- Why the machine stops with a fault. -/
inductive Fault where
  /-- Raised by `CSUM` for a range that is not `lo ≤ hi` inside the 72 bytes of the packet buffer, whose
  bytes do not exist (R50, R56, R130). No well-formed instruction has such a range. Safe: the model
  stops where the spec gives no effect. -/
  | outsideBuffer
  deriving DecidableEq, Repr

/-- Why a step has no meaning. -/
inductive Refusal where
  /-- Raised by `exec` for an instruction that has no meaning in the model yet (none is left). Safe. -/
  | notModelled (mnemonic : String)
  /-- Raised by `step` for a selector that is no row of the opcode table; a command code never is one.
  Safe: the hardware has no such operation. -/
  | noSuchRow
  deriving DecidableEq, Repr

/-- The machine right after reset (R38, R260): `FAULT`, `STATUS` and `SCAN_POS` are 0, `OUTQ` is empty,
every operand and result register and every buffer byte holds no value, and the straps have their
defaults (R9). -/
def State.reset : State where
  fault := false
  status := 0
  scanPos := 0
  outq := []
  cmdOp := none
  fx := {}
  pk := {}
  sc := {}
  scTagByte := none
  sp := []
  pb := []
  pbLen := none
  sb := []
  sbLen := none
  navPolicy := 0
  chkRejectMask := 0
  sbMax := none
  num := .reference
  csumOut := none
  routeOut := none
  syncOut := none
  scanOut := none
  freeCtr := 0
  host := []

end Sys2Proof.Machine
end

