-- ==== Sys2Proof/Machine/Flags.lean ====
section
/-! DEFINITION. The flags of the block (spec/10_state.md rule R32), every one a function of the bytes or
fields it is derived from, and the equality of packets that leaves them out (R34). -/

namespace Sys2Proof.Machine

/-- `checksum1Valid`: `CSUM(PB,1,21) = PB[22]` (R32, R152). -/
def chk1Ok (b : List Byte) : Bool := csumOf b 1 21 == byteAt b offChk1

/-- `checksum2Valid`: `CSUM(PB,1,60) = PB[61]` (R32, R152). -/
def chk2Ok (b : List Byte) : Bool := csumOf b 1 60 == byteAt b offChk2

/-- `checksum3Valid`: `CSUM(PB,1,70) = PB[71]` (R32, R134). -/
def chk3Ok (b : List Byte) : Bool := csumOf b 1 70 == byteAt b offChk3

/-- An accuracy is valid only while `age < 150` (R32, R181). -/
def ageOk (age : Byte) : Bool := decide (age.toNat < ageLimit)

/-- `deviceStatus = 0xFF` means invalid (R32, R181). -/
def deviceOk (deviceStatus : Byte) : Bool := deviceStatus != devInvalid

/-- The derived flag `accValid` of the variants that have it, tags 3, 4 and 5 (R32, R196). -/
def Variant.accValid : Variant → Option Bool
  | .sc3 f => some (ageOk f.age)
  | .sc4 f => some (ageOk f.age)
  | .sc5 f => some (ageOk f.age)
  | .sc0 _ | .sc1 _ | .sc2 _ | .sc6 _ | .sc7 _ | .sc8 _ | .sc9 _ => none

/-- The derived flag `deviceStatusValid` of tag 3 (R32, R196). -/
def Variant.deviceStatusValid : Variant → Option Bool
  | .sc3 f => some (deviceOk f.deviceStatus)
  | .sc0 _ | .sc1 _ | .sc2 _ | .sc4 _ | .sc5 _ | .sc6 _ | .sc7 _ | .sc8 _ | .sc9 _ => none

/-- A packet with its derived checksum flags wiped: its semantic fields (R34). -/
def Packet.semantic : Packet → Packet
  | .structureA a =>
    .structureA { a with checksum1Valid := false, checksum2Valid := false, checksum3Valid := false }
  | .structureB b => .structureB { b with checksum3Valid := false }

/-- Semantic equality of packets (R34): the variant, the navigation status and every field but the
checksum flags, floats by bit pattern. -/
def Packet.semEq (p q : Packet) : Bool := p.semantic == q.semantic

/-- `CHKOK` (R212): which false checksum flags make the scanner reject a decoded candidate. -/
def chkAccept (mask : BitVec 3) : Packet → Bool
  | .structureA a =>
    (!mask.getLsbD 2 || a.checksum3Valid) && (!mask.getLsbD 0 || a.checksum1Valid) &&
      (!mask.getLsbD 1 || a.checksum2Valid)
  | .structureB b => !mask.getLsbD 2 || b.checksum3Valid

end Sys2Proof.Machine
end

