-- ==== Sys2Proof/Machine/Numerics.lean ====
section
/-! DEFINITION. The numerics record `NUM` (spec/00_scope.md rule R13): the reference numerics, worked out
over natural numbers and rounded once at the end, and the properties every admissible record has
(spec/40_fixedpoint.md rule R119).

A finite pattern's magnitude is a whole number of units of 2^-149, the least binary32 step; `f32Mag`
is that number. -/

namespace Sys2Proof.Machine

/-- The sign bit (R12, G1). -/
def f32Neg (x : F32) : Bool := x.getLsbD 31

/-- The biased exponent field. -/
def f32Exp (x : F32) : Nat := x.toNat / 2 ^ 23 % 256

/-- The fraction field. -/
def f32Frac (x : F32) : Nat := x.toNat % 2 ^ 23

/-- Neither infinite nor not a number. -/
def f32IsFinite (x : F32) : Bool := f32Exp x != 255

/-- Not a number. -/
def f32IsNaN (x : F32) : Bool := f32Exp x == 255 && f32Frac x != 0

/-- Infinite. -/
def f32IsInf (x : F32) : Bool := f32Exp x == 255 && f32Frac x == 0

/-- The magnitude of a finite pattern, in units of 2^-149. -/
def f32Mag (x : F32) : Nat :=
  if f32Exp x = 0 then f32Frac x else (2 ^ 23 + f32Frac x) * 2 ^ (f32Exp x - 1)

/-- The value of a finite pattern. -/
def f32Val (x : F32) : ℚ := (if f32Neg x then -1 else 1) * ((f32Mag x : ℚ) / 2 ^ 149)

/-- `n / d` rounded to the nearest natural number, a tie going to the even one. -/
def rne (n d : Nat) : Nat :=
  let q := n / d
  let r := n % d
  if 2 * r < d then q else if d < 2 * r then q + 1 else if q % 2 = 0 then q else q + 1

/-- The exponent step `k` at which `n / d` units have a 24-bit significand: 0 for subnormal and least
normal magnitudes. -/
def roundShift (n d : Nat) : Nat := Nat.log2 (n / d) - 23

/-- The pattern (without sign) of the magnitude `n / d` units, rounded to the nearest binary32, ties to
even; past the largest finite one it is the infinity. A significand that rounds up to `2^24` carries
into the exponent field by itself. -/
def roundMag (n d : Nat) : Nat :=
  let k := roundShift n d
  min (k * 2 ^ 23 + rne n (d * 2 ^ k)) (255 * 2 ^ 23)

/-- A pattern from its sign and its other 31 bits. -/
def f32Pack (neg : Bool) (mag : Nat) : F32 := BitVec.ofNat 32 ((if neg then 2 ^ 31 else 0) + mag)

/-- A result that is not a number, its pattern free (R13 states none). -/
def f32NaN (a b : F32) : F32 :=
  let p := Config.nanPattern a b
  if f32IsNaN p then p else 0x7FC00000

/-- `NUM.div` of the reference numerics (R13): binary32 division, nearest, ties to even. Operands that are
not finite, a zero divisor and overflow are IEEE 754's (log entry 26). -/
def refDiv (a b : F32) : F32 :=
  let neg := xor (f32Neg a) (f32Neg b)
  if f32IsNaN a || f32IsNaN b then f32NaN a b
  else if f32IsInf a then
    if f32IsInf b then f32NaN a b else f32Pack neg (255 * 2 ^ 23)
  else if f32IsInf b then f32Pack neg 0
  else if f32Mag b = 0 then
    if f32Mag a = 0 then f32NaN a b else f32Pack neg (255 * 2 ^ 23)
  else f32Pack neg (roundMag (f32Mag a * 2 ^ 149) (f32Mag b))

/-- `NUM.mul` of the reference numerics (R13): binary32 multiplication, nearest, ties to even. Operands that
are not finite and overflow are IEEE 754's (log entry 26). -/
def refMul (a b : F32) : F32 :=
  let neg := xor (f32Neg a) (f32Neg b)
  if f32IsNaN a || f32IsNaN b then f32NaN a b
  else if f32IsInf a then
    if f32IsFinite b && f32Mag b == 0 then f32NaN a b else f32Pack neg (255 * 2 ^ 23)
  else if f32IsInf b then
    if f32Mag a = 0 then f32NaN a b else f32Pack neg (255 * 2 ^ 23)
  else f32Pack neg (roundMag (f32Mag a * f32Mag b) (2 ^ 149))

/-- The magnitude of a finite pattern rounded to a natural number, a tie going away from zero (D8). -/
def roundHalfAway (x : F32) : Nat := (2 * f32Mag x + 2 ^ 149) / 2 ^ 150

/-- `NUM.rint` of the reference numerics (R13): nearest integer, ties away from zero; `none` is `OUT`. -/
def refRint (d : F32) : Option I32 :=
  if f32IsFinite d then
    let m := roundHalfAway d
    if f32Neg d then (if m ≤ 2 ^ 31 then some (BitVec.ofInt 32 (-(m : Int))) else none)
    else if m < 2 ^ 31 then some (BitVec.ofNat 32 m) else none
  else none

/-- `NUM.i2f` of the reference numerics (R13): exact for `|n| ≤ 2^24`, free beyond. -/
def refI2f (n : I32) : F32 :=
  if n.toInt.natAbs ≤ 2 ^ 24 then
    f32Pack (decide (n.toInt < 0)) (roundMag (n.toInt.natAbs * 2 ^ 149) 1)
  else Config.i2fWide n

/-- A numerics record (R13); `rint` answers `none` for `OUT`. -/
structure NumRec where
  div : F32 → F32 → F32
  rint : F32 → Option I32
  i2f : I32 → F32
  mul : F32 → F32 → F32

/-- The numerics record an instance is built with (R9, R13). -/
def numOf : NumSel → NumRec
  | .reference => { div := refDiv, rint := refRint, i2f := refI2f, mul := refMul }
  | .other k =>
    { div := Config.otherDiv k, rint := Config.otherRint k, i2f := Config.otherI2f k,
      mul := Config.otherMul k }

/-- The pattern of 1.0. -/
def f32One : F32 := 0x3F800000

/-- P1 to P3 of R119; P4 holds of every `NumRec`, its members being functions. -/
structure NumRec.Admissible (num : NumRec) : Prop where
  /-- P1: a 32-bit integer that is an `f32` comes back from division by 1.0 and `rint`. -/
  div_one : ∀ (v : F32) (k : Int), f32IsFinite v = true → f32Val v = k → k.natAbs < 2 ^ 31 →
    num.rint (num.div v f32One) = some (BitVec.ofInt 32 k)
  /-- P2: an int24 times 1.0 is the `f32` of exactly that value. -/
  mul_one : ∀ n : I32, -2 ^ 23 ≤ n.toInt → n.toInt < 2 ^ 23 →
    f32IsFinite (num.mul (num.i2f n) f32One) = true ∧ f32Val (num.mul (num.i2f n) f32One) = n.toInt
  /-- P3: both zeros quantise to 0 and 0 dequantises to +0.0, for every finite positive scale. -/
  zero_scale : ∀ s : F32, f32IsFinite s = true → 0 < f32Val s →
    num.rint (num.div 0x00000000 s) = some 0 ∧ num.rint (num.div 0x80000000 s) = some 0 ∧
    num.mul (num.i2f 0) s = 0x00000000

/-- `QUANT(v, s)` (R113); `none` is `OUT`. R120 and U1 count `s = 0` and every operand that is not finite
as `OUT`, also a finite `v` over an infinite `s`, where R113's formula gives the reference numerics the
integer 0: the model takes `OUT` there, so the integer is free and may be 0 (DESIGN CHOICE, log entry
25). -/
def quantOf (num : NumRec) (v s : F32) : Option I32 :=
  if f32IsFinite v && f32IsFinite s && f32Mag s != 0 then num.rint (num.div v s) else none

/-- `DEQUANT(n, s)` (R115). -/
def dequantOf (num : NumRec) (n : I32) (s : F32) : F32 := num.mul (num.i2f n) s

end Sys2Proof.Machine
end

