-- ==== Sys2Proof/Machine/Codec.lean ====
section
/-! DEFINITION. The codecs as pure functions of their operands (spec/00_scope.md rules R7, R15): the
int24 codec, the ten status payloads, the packet bodies and the envelope, laid out as
spec/30_encoding.md rules R71 to R89 say. -/

namespace Sys2Proof.Machine

/-- Byte `k` of the low 24 bits of an integer, `FX.B[k]` of `I24.PACK` (R110). -/
def packByte (n : I32) (k : Nat) : Byte := n.extractLsb' (8 * k) 8

/-- `I24.PACK` (R110): the low 24 bits, least significant byte first. -/
def pack24 (n : I32) : List Byte := [packByte n 0, packByte n 1, packByte n 2]

/-- `I24.UNPACK` (R111): the bytes at bit positions 8 to 31, shifted right arithmetically by 8. -/
def unpack24 (b0 b1 b2 : Byte) : I32 := ((b2 ++ b1 ++ b0 ++ (0 : Byte) : BitVec 32)).sshiftRight 8

/-- The integer `ENC24` packs (R114): the quantised value, or a free one for `OUT` (R120, log entries 3 and
25). -/
def encInt (num : NumRec) (free : I32) (v s : F32) : I32 := (quantOf num v s).getD free

/-- The three bytes of an int24 field (R114). -/
def encField (num : NumRec) (free : I32) (v s : F32) : List Byte := pack24 (encInt num free v s)

/-- An int24 field read at an offset (R116, R152). -/
def decField (num : NumRec) (b : List Byte) (off : Nat) (s : F32) : F32 :=
  dequantOf num (unpack24 (byteAt b off) (byteAt b (off + 1)) (byteAt b (off + 2))) s

/-- The innovation byte (R88). -/
def innovByte (c : Innov) : Byte := c.mag ++ BitVec.ofBool c.valid

/-- An innovation channel from its byte (R88). -/
def innovOf (b : Byte) : Innov := { mag := b.extractLsb' 1 7, valid := b.getLsbD 0 }

/-- The nibble-pair byte (R89): `countL2` in bits 7:4, `countL1` in bits 3:0. -/
def nibbleByte (countL1 countL2 : BitVec 4) : Byte := countL2 ++ countL1

/-- Payload of tag 0 (R78, R174). -/
def sc0Bytes (f : Sc0) : List Byte :=
  leBytes 4 f.fullTime.toNat ++ [f.numSatellites, f.positionMode, f.velocityMode, f.orientationMode]

/-- Fields of tag 0 (R78, R175). -/
def sc0Of (p : List Byte) : Sc0 where
  fullTime := read32 p 0
  numSatellites := byteAt p 4
  positionMode := byteAt p 5
  velocityMode := byteAt p 6
  orientationMode := byteAt p 7

/-- Payload of tag 1 (R79, R176). -/
def sc1Bytes (f : Sc1) : List Byte :=
  [innovByte f.innovPosX, innovByte f.innovPosY, innovByte f.innovPosZ, innovByte f.innovVelX,
    innovByte f.innovVelY, innovByte f.innovVelZ, innovByte f.innovPitch, innovByte f.innovHeading]

/-- Fields of tag 1 (R79, R177). -/
def sc1Of (p : List Byte) : Sc1 where
  innovPosX := innovOf (byteAt p 0)
  innovPosY := innovOf (byteAt p 1)
  innovPosZ := innovOf (byteAt p 2)
  innovVelX := innovOf (byteAt p 3)
  innovVelY := innovOf (byteAt p 4)
  innovVelZ := innovOf (byteAt p 5)
  innovPitch := innovOf (byteAt p 6)
  innovHeading := innovOf (byteAt p 7)

/-- Payload of tag 2 (R80, R178). -/
def sc2Bytes (f : Sc2) : List Byte :=
  leBytes 2 f.charsReceived.toNat ++ leBytes 2 f.packetsReceived.toNat ++
    leBytes 2 f.charsNotUnderstood.toNat ++ leBytes 2 f.packetsNotUsed.toNat

/-- Fields of tag 2 (R80, R179). -/
def sc2Of (p : List Byte) : Sc2 where
  charsReceived := read16 p 0
  packetsReceived := read16 p 2
  charsNotUnderstood := read16 p 4
  packetsNotUsed := read16 p 6

/-- Payload of tag 3 (R81, R180). -/
def sc3Bytes (f : Sc3) : List Byte :=
  leBytes 2 f.accNorth.toNat ++ leBytes 2 f.accEast.toNat ++ leBytes 2 f.accDown.toNat ++
    [f.age, f.deviceStatus]

/-- Fields of tag 3 (R81, R181). -/
def sc3Of (p : List Byte) : Sc3 where
  accNorth := read16 p 0
  accEast := read16 p 2
  accDown := read16 p 4
  age := byteAt p 6
  deviceStatus := byteAt p 7

/-- Payload of tag 4 (R82, R182). -/
def sc4Bytes (f : Sc4) : List Byte :=
  leBytes 2 f.velAcc0.toNat ++ leBytes 2 f.velAcc1.toNat ++ leBytes 2 f.velAcc2.toNat ++
    [f.age, f.processingMethod]

/-- Fields of tag 4 (R82, R183). -/
def sc4Of (p : List Byte) : Sc4 where
  velAcc0 := read16 p 0
  velAcc1 := read16 p 2
  velAcc2 := read16 p 4
  age := byteAt p 6
  processingMethod := byteAt p 7

/-- Payload of tag 5 (R83, R184): the third value at payload offset 4, not 3 (R198). -/
def sc5Bytes (f : Sc5) : List Byte :=
  leBytes 2 f.accHeading.toNat ++ leBytes 2 f.accPitch.toNat ++ leBytes 2 f.accRoll.toNat ++
    [f.age, f.reserved]

/-- Fields of tag 5 (R83, R185). -/
def sc5Of (p : List Byte) : Sc5 where
  accHeading := read16 p 0
  accPitch := read16 p 2
  accRoll := read16 p 4
  age := byteAt p 6
  reserved := byteAt p 7

/-- Payload of tags 6 to 9 (R84 to R87, R186). -/
def scValsBytes (f : ScVals) : List Byte :=
  leBytes 2 f.val0.toNat ++ leBytes 2 f.val1.toNat ++ leBytes 2 f.val2.toNat ++
    [f.age, nibbleByte f.countL1 f.countL2]

/-- Fields of tags 6 to 9 (R84 to R87, R187). -/
def scValsOf (p : List Byte) : ScVals where
  val0 := read16 p 0
  val1 := read16 p 2
  val2 := read16 p 4
  age := byteAt p 6
  countL1 := (byteAt p 7).extractLsb' 0 4
  countL2 := (byteAt p 7).extractLsb' 4 4

/-- The registry (R21, R171): tags 0 to 9 name the ten variants, every other tag nothing. -/
def registry (tag : Byte) : Option (BitVec 4) :=
  if tag.toNat < numVariants then some (BitVec.ofNat 4 tag.toNat) else none

/-- The eight payload bytes of a variant (R172, R174 to R192). -/
def payloadOf : Variant → List Byte
  | .sc0 f => sc0Bytes f
  | .sc1 f => sc1Bytes f
  | .sc2 f => sc2Bytes f
  | .sc3 f => sc3Bytes f
  | .sc4 f => sc4Bytes f
  | .sc5 f => sc5Bytes f
  | .sc6 f => scValsBytes f
  | .sc7 f => scValsBytes f
  | .sc8 f => scValsBytes f
  | .sc9 f => scValsBytes f

/-- The tag byte an encode writes (R172, R194). -/
def tagByteOf : Option Variant → Byte
  | none => tagNone
  | some (.sc0 _) => 0
  | some (.sc1 _) => 1
  | some (.sc2 _) => 2
  | some (.sc3 _) => 3
  | some (.sc4 _) => 4
  | some (.sc5 _) => 5
  | some (.sc6 _) => 6
  | some (.sc7 _) => 7
  | some (.sc8 _) => 8
  | some (.sc9 _) => 9

/-- The payload bytes an encode writes: eight zeros with no status channel (R194). -/
def channelPayload : Option Variant → List Byte
  | none => List.replicate payLen 0
  | some v => payloadOf v

/-- `SC.DEC` (R173): the registry's variant read from the payload, or `None` (R195). -/
def channelOf (tag : Byte) (p : List Byte) : Option Variant :=
  match registry tag with
  | none => none
  | some t =>
    match t.toNat with
    | 0 => some (.sc0 (sc0Of p))
    | 1 => some (.sc1 (sc1Of p))
    | 2 => some (.sc2 (sc2Of p))
    | 3 => some (.sc3 (sc3Of p))
    | 4 => some (.sc4 (sc4Of p))
    | 5 => some (.sc5 (sc5Of p))
    | 6 => some (.sc6 (scValsOf p))
    | 7 => some (.sc7 (scValsOf p))
    | 8 => some (.sc8 (scValsOf p))
    | 9 => some (.sc9 (scValsOf p))
    | _ => none

/-- Batch A, offsets 1 to 21 (R71, R150): time, accelerations, angular rates, navigation status. `free k`
is the free integer of the k-th int24 field. -/
def batchA (num : NumRec) (free : Nat → I32) (a : StructureA) : List Byte :=
  leBytes 2 (a.time.toNat % timeMod) ++
    encField num (free 0) a.accelerationX sAcc ++ encField num (free 1) a.accelerationY sAcc ++
    encField num (free 2) a.accelerationZ sAcc ++ encField num (free 3) a.angularRateX sAng ++
    encField num (free 4) a.angularRateY sAng ++ encField num (free 5) a.angularRateZ sAng ++
    [a.navigationStatus]

/-- Batch B, offsets 23 to 60 (R71, R150). -/
def batchB (num : NumRec) (free : Nat → I32) (a : StructureA) : List Byte :=
  leBytes 8 a.latitude.toNat ++ leBytes 8 a.longitude.toNat ++ leBytes 4 a.altitude.toNat ++
    encField num (free 6) a.velocityNorth sVel ++ encField num (free 7) a.velocityEast sVel ++
    encField num (free 8) a.velocityDown sVel ++ encField num (free 9) a.heading sOri ++
    encField num (free 10) a.pitch sOri ++ encField num (free 11) a.roll sOri

/-- `A.ENC` (R150): offsets 1 to 70. checksum1 is over offsets 1..21 and checksum2 over 1..60, each after
the bytes before it are final (R278). -/
def bodyA (num : NumRec) (free : Nat → I32) (a : StructureA) : List Byte :=
  let toNav := batchA num free a
  let toB := toNav ++ [sum8 toNav] ++ batchB num free a
  toB ++ [sum8 toB] ++ [tagByteOf a.statusChannel] ++ channelPayload a.statusChannel

/-- `B.ENC` (R153): offsets 1 to 70, zero but for the navigation status at 21. -/
def bodyB (nav : Byte) : List Byte := List.replicate 20 0 ++ [nav] ++ List.replicate 49 0

/-- The body of a packet by its variant (R132). -/
def bodyOf (num : NumRec) (free : Nat → I32) : Packet → List Byte
  | .structureA a => bodyA num free a
  | .structureB b => bodyB b.navigationStatus

/-- `PKT.ENC` (R132): the sync byte, the body, checksum3 over offsets 1..70. -/
def pktEncode (num : NumRec) (free : Nat → I32) (p : Packet) : List Byte :=
  let body := bodyOf num free p
  [syncByte] ++ body ++ [sum8 body]

/-- `ROUTE` (R135) under a strap value. -/
def routeOf (policy : BitVec 2) (nav : Byte) : Route :=
  if nav = navB then .B
  else if navAllowed.contains nav then .A
  else match navPolicyOf policy with
    | .reject => .reject
    | .acceptA => .A
    | .routeB => .B

/-- `A.DEC` with the envelope's two fields (R134, R152): the whole `StructureA` record of a packet. -/
def decodeA (num : NumRec) (b : List Byte) : StructureA where
  navigationStatus := byteAt b offNav
  time := read16 b 1
  accelerationX := decField num b 3 sAcc
  accelerationY := decField num b 6 sAcc
  accelerationZ := decField num b 9 sAcc
  angularRateX := decField num b 12 sAng
  angularRateY := decField num b 15 sAng
  angularRateZ := decField num b 18 sAng
  checksum1Valid := chk1Ok b
  latitude := read64 b 23
  longitude := read64 b 31
  altitude := read32 b 39
  velocityNorth := decField num b 43 sVel
  velocityEast := decField num b 46 sVel
  velocityDown := decField num b 49 sVel
  heading := decField num b 52 sOri
  pitch := decField num b 55 sOri
  roll := decField num b 58 sOri
  checksum2Valid := chk2Ok b
  statusChannel := channelOf (byteAt b offTag) (slice b offPay payLen)
  checksum3Valid := chk3Ok b

/-- The `StructureB` record of a packet (R134, R154). -/
def decodeB (b : List Byte) : StructureB where
  navigationStatus := byteAt b offNav
  checksum3Valid := chk3Ok b

/-- `PKT.DEC` (R134) of a buffer of a declared length: length, then sync, then navigation status (R238). -/
def pktDecode (num : NumRec) (policy : BitVec 2) (len : Nat) (b : List Byte) : Except Err Packet :=
  if len < pktLen then .error .structuralShort
  else if byteAt b 0 ≠ syncByte then .error .structuralSync
  else match routeOf policy (byteAt b offNav) with
    | .reject => .error .unrecognizedNav
    | .A => .ok (.structureA (decodeA num b))
    | .B => .ok (.structureB (decodeB b))

/-- `ACCEPTS` (R212) of a complete candidate's window: the packet it yields, if it is accepted. -/
def accepts (num : NumRec) (policy : BitVec 2) (mask : BitVec 3) (window : List Byte) : Option Packet :=
  match pktDecode num policy pktLen window with
  | .ok p => if chkAccept mask p then some p else none
  | .error _ => none

/-- One scanner step (R213) over the stream's bytes: the outcome, the next position, the next queue. -/
def scanStepOf (num : NumRec) (policy : BitVec 2) (mask : BitVec 3) (sb : List Byte) (pos : Nat)
    (q : List Packet) : ScanOutcome × Nat × List Packet :=
  if sb.length ≤ pos then (.stopEnd, pos, q)
  else if byteAt sb pos ≠ syncByte then (.skip, pos + 1, q)
  else if sb.length - pos < pktLen then (.stopShort, pos, q)
  else match accepts num policy mask (slice sb pos pktLen) with
    | some p => (.accept, pos + pktLen, q ++ [p])
    | none => (.reject, pos + 1, q)

/-- Whether an outcome ends the scan (R214). -/
def ScanOutcome.stops : ScanOutcome → Bool
  | .stopEnd | .stopShort => true
  | .skip | .accept | .reject => false

/-- `SCAN.STEP` repeated until it stops (R214), at most `fuel` times; `SB_LEN + 1` steps are always enough
(R215). -/
def scanLoop (num : NumRec) (policy : BitVec 2) (mask : BitVec 3) (sb : List Byte) :
    Nat → Nat → List Packet → ScanOutcome × Nat × List Packet
  | 0, pos, q => (.stopEnd, pos, q)
  | fuel + 1, pos, q =>
    let r := scanStepOf num policy mask sb pos q
    if r.1.stops then r else scanLoop num policy mask sb fuel r.2.1 r.2.2

/-- `SCAN` (R214) from the first byte with an empty queue. -/
def scanAll (num : NumRec) (policy : BitVec 2) (mask : BitVec 3) (sb : List Byte) :
    ScanOutcome × Nat × List Packet :=
  scanLoop num policy mask sb (sb.length + 1) 0 []

end Sys2Proof.Machine
end

