-- ==== Sys2Proof/Machine/Operands.lean ====
section
/-! DEFINITION. How an operation's operands are read from the registers and the buffers. Every reading
answers `none` where an operand holds no value, which is cause (d) of a `PreconditionViolation`
(spec/10_state.md rule R36, spec/60_exceptions.md rule R237). -/

namespace Sys2Proof.Machine

/-- The byte at an offset of a buffer, if it holds a value. -/
def Memory.read : Memory → Nat → Option Byte
  | [], _ => none
  | (k, b) :: r, a => if k = a then some b else Memory.read r a

/-- The `n` bytes at offsets `a..a+n-1`, if all of them hold a value. -/
def Memory.readRange (m : Memory) : Nat → Nat → Option (List Byte)
  | _, 0 => some []
  | a, n + 1 =>
    match Memory.read m a, Memory.readRange m (a + 1) n with
    | some b, some r => some (b :: r)
    | _, _ => none

/-- The packet buffer's 72 bytes. -/
def pbOperand (s : State) : Option (List Byte) := s.pb.readRange 0 pktLen

/-- Offsets 1 to 70 of the packet buffer, the operands of `A.DEC` (R152), as a packet's bytes: a byte that
`A.DEC` does not read stands at offset 0, so that every other one stands at its own offset. -/
def bodyOperand (s : State) : Option (List Byte) := (s.pb.readRange 1 70).map fun body => 0 :: body

/-- The status payload's 8 bytes. -/
def spOperand (s : State) : Option (List Byte) := s.sp.readRange 0 payLen

/-- The stream buffer's `SB_LEN` bytes. -/
def sbOperand (s : State) : Option (List Byte) :=
  match s.sbLen with
  | some n => s.sb.readRange 0 n
  | none => none

/-- `FX.B[0..2]`. -/
def fxBytes (r : FxRegs) : Option (Byte × Byte × Byte) :=
  match r.b0, r.b1, r.b2 with
  | some b0, some b1, some b2 => some (b0, b1, b2)
  | _, _, _ => none

/-- The stored fields of tag 0 (R174). -/
def sc0Operand (r : ScRegs) : Option Sc0 := do
  some {
    fullTime := ← r.fullTime, numSatellites := ← r.numSatellites, positionMode := ← r.positionMode,
    velocityMode := ← r.velocityMode, orientationMode := ← r.orientationMode }

/-- The stored fields of tag 1 (R176). -/
def sc1Operand (r : ScRegs) : Option Sc1 := do
  some {
    innovPosX := ← r.innovPosX, innovPosY := ← r.innovPosY, innovPosZ := ← r.innovPosZ,
    innovVelX := ← r.innovVelX, innovVelY := ← r.innovVelY, innovVelZ := ← r.innovVelZ,
    innovPitch := ← r.innovPitch, innovHeading := ← r.innovHeading }

/-- The stored fields of tag 2 (R178). -/
def sc2Operand (r : ScRegs) : Option Sc2 := do
  some {
    charsReceived := ← r.charsReceived, packetsReceived := ← r.packetsReceived,
    charsNotUnderstood := ← r.charsNotUnderstood, packetsNotUsed := ← r.packetsNotUsed }

/-- The stored fields of tag 3 (R180). -/
def sc3Operand (r : ScRegs) : Option Sc3 := do
  some {
    accNorth := ← r.accNorth, accEast := ← r.accEast, accDown := ← r.accDown, age := ← r.age,
    deviceStatus := ← r.deviceStatus }

/-- The stored fields of tag 4 (R182). -/
def sc4Operand (r : ScRegs) : Option Sc4 := do
  some {
    velAcc0 := ← r.velAcc0, velAcc1 := ← r.velAcc1, velAcc2 := ← r.velAcc2, age := ← r.age,
    processingMethod := ← r.processingMethod }

/-- The stored fields of tag 5 (R184). -/
def sc5Operand (r : ScRegs) : Option Sc5 := do
  some {
    accHeading := ← r.accHeading, accPitch := ← r.accPitch, accRoll := ← r.accRoll, age := ← r.age,
    reserved := ← r.reserved }

/-- The stored fields of tags 6 to 9 (R186, R188, R190, R192). -/
def scValsOperand (r : ScRegs) : Option ScVals := do
  some {
    val0 := ← r.val0, val1 := ← r.val1, val2 := ← r.val2, age := ← r.age, countL1 := ← r.countL1,
    countL2 := ← r.countL2 }

/-- The variant that `SC.tag` names, from its registers; tags 10 to 15 name none (R172). -/
def variantOperand (r : ScRegs) (tag : BitVec 4) : Option Variant :=
  match tag.toNat with
  | 0 => (sc0Operand r).map .sc0
  | 1 => (sc1Operand r).map .sc1
  | 2 => (sc2Operand r).map .sc2
  | 3 => (sc3Operand r).map .sc3
  | 4 => (sc4Operand r).map .sc4
  | 5 => (sc5Operand r).map .sc5
  | 6 => (scValsOperand r).map .sc6
  | 7 => (scValsOperand r).map .sc7
  | 8 => (scValsOperand r).map .sc8
  | 9 => (scValsOperand r).map .sc9
  | _ => none

/-- `PK.statusChannel` as an encode reads it (R33, R172): `none` outside where a register it needs holds
no value or `SC.tag` is 10..15, `some none` for "no status channel". -/
def channelOperand (r : ScRegs) : Option (Option Variant) :=
  match r.present with
  | none => none
  | some false => some none
  | some true =>
    match r.tag with
    | none => none
    | some t => (variantOperand r t).map some

/-- The `StructureA` record as an encode reads it (R28). The three checksum flags are no operand
(R132, R276); they stand as the registers have them and the encoder does not look at them. -/
def structureAOperand (r : PkRegs) (sc : ScRegs) : Option StructureA := do
  some {
    navigationStatus := ← r.navigationStatus, time := ← r.time,
    accelerationX := ← r.accelerationX, accelerationY := ← r.accelerationY,
    accelerationZ := ← r.accelerationZ, angularRateX := ← r.angularRateX,
    angularRateY := ← r.angularRateY, angularRateZ := ← r.angularRateZ,
    checksum1Valid := r.checksum1Valid.getD false,
    latitude := ← r.latitude, longitude := ← r.longitude, altitude := ← r.altitude,
    velocityNorth := ← r.velocityNorth, velocityEast := ← r.velocityEast,
    velocityDown := ← r.velocityDown, heading := ← r.heading, pitch := ← r.pitch, roll := ← r.roll,
    checksum2Valid := r.checksum2Valid.getD false,
    statusChannel := ← channelOperand sc,
    checksum3Valid := r.checksum3Valid.getD false }

/-- The `StructureB` record as an encode reads it (R29). -/
def structureBOperand (r : PkRegs) : Option StructureB := do
  some { navigationStatus := ← r.navigationStatus, checksum3Valid := r.checksum3Valid.getD false }

/-- The packet record as `PKT.ENC` reads it, by `PK.kind` (R132). -/
def packetOperand (r : PkRegs) (sc : ScRegs) : Option Packet :=
  match r.kind with
  | some .A => (structureAOperand r sc).map .structureA
  | some .B => (structureBOperand r).map .structureB
  | none => none

end Sys2Proof.Machine
end

