-- ==== Sys2Proof/Machine/Ops.lean ====
section
/-! DEFINITION. The shared operations on the state: writing a buffer, writing a decoded record into the
registers, completing a command, raising an error (one operation for all four errors), reset (the one
way back from `FAULT`), and the host's writes. -/

namespace Sys2Proof.Machine

/-- Write one byte of a buffer, keeping the canonical form. -/
def Memory.write : Memory → Nat → Byte → Memory
  | [], a, b => [(a, b)]
  | (k, c) :: r, a, b =>
    if a < k then (a, b) :: (k, c) :: r
    else if a = k then (a, b) :: r
    else (k, c) :: Memory.write r a b

/-- Write bytes at offsets `a`, `a+1`, ... (R52). -/
def Memory.writeRange (m : Memory) : Nat → List Byte → Memory
  | _, [] => m
  | a, b :: r => Memory.writeRange (m.write a b) (a + 1) r

/-- A buffer that holds exactly the given bytes, from offset 0. -/
def Memory.ofBytes (bytes : List Byte) : Memory := Memory.writeRange [] 0 bytes

/-- `raise` (R14, R239): the one operation that ends a command with an error. A structural error or an
unrecognised navigation status writes its code and leaves the record registers without a value (R232
to R234); a `PreconditionViolation` sets `FAULT` and `STATUS` and writes nothing else (R237).
Which registers "every `PK.*` and `SC.*`" are: log entry 10. -/
def raise : Err → State → State
  | .structuralShort, s => { s with status := statusErrShort, pk := {}, sc := {} }
  | .structuralSync, s => { s with status := statusErrSync, pk := {}, sc := {} }
  | .unrecognizedNav, s => { s with status := statusErrNav, pk := {}, sc := {} }
  | .preconditionViolation, s => { s with fault := true, status := statusFaulted }

/-- The end of a command that completed: `STATUS <- OK` (R231). -/
def complete (s : State) : State := { s with status := statusOk }

/-- A command met while `FAULT = 1` (R23): it ends at once with `STATUS = FAULTED`. -/
def endFaulted (s : State) : State := { s with status := statusFaulted }

/-- Every operation runs through this: while `FAULT = 1` nothing happens but the status (R23, R238); an
operation whose operands hold no value (`none`) is a `PreconditionViolation` (R237 (c), (d)). -/
def runOp (s : State) (result : Option State) : Host.Outcome State Fault Refusal :=
  if s.fault then .next (endFaulted s)
  else match result with
    | some t => .next t
    | none => .next (raise .preconditionViolation s)

/-- Reset (R260): everything as `State.reset` has it, the straps sampled anew. The instance's fixed
properties (`SB_MAX`, `NUM`), the host's script and the count of free values stay (log entry 6). -/
def resetBlock (navPolicy : BitVec 2) (chkRejectMask : BitVec 3) (s : State) : State :=
  { State.reset with
    navPolicy := navPolicy, chkRejectMask := chkRejectMask, sbMax := s.sbMax, num := s.num,
    freeCtr := s.freeCtr, host := s.host }

/-- The stored fields and derived flags of a variant as a decode leaves them in the registers; no field
of another variant holds a value (R35). `SC.present` and `SC.tag` are not among them. -/
def scFields : Variant → ScRegs
  | .sc0 f =>
    { fullTime := some f.fullTime, numSatellites := some f.numSatellites,
      positionMode := some f.positionMode, velocityMode := some f.velocityMode,
      orientationMode := some f.orientationMode }
  | .sc1 f =>
    { innovPosX := some f.innovPosX, innovPosY := some f.innovPosY, innovPosZ := some f.innovPosZ,
      innovVelX := some f.innovVelX, innovVelY := some f.innovVelY, innovVelZ := some f.innovVelZ,
      innovPitch := some f.innovPitch, innovHeading := some f.innovHeading }
  | .sc2 f =>
    { charsReceived := some f.charsReceived, packetsReceived := some f.packetsReceived,
      charsNotUnderstood := some f.charsNotUnderstood, packetsNotUsed := some f.packetsNotUsed }
  | .sc3 f =>
    { accNorth := some f.accNorth, accEast := some f.accEast, accDown := some f.accDown,
      age := some f.age, deviceStatus := some f.deviceStatus, accValid := (Variant.sc3 f).accValid,
      deviceStatusValid := (Variant.sc3 f).deviceStatusValid }
  | .sc4 f =>
    { velAcc0 := some f.velAcc0, velAcc1 := some f.velAcc1, velAcc2 := some f.velAcc2,
      age := some f.age, processingMethod := some f.processingMethod,
      accValid := (Variant.sc4 f).accValid }
  | .sc5 f =>
    { accHeading := some f.accHeading, accPitch := some f.accPitch, accRoll := some f.accRoll,
      age := some f.age, reserved := some f.reserved, accValid := (Variant.sc5 f).accValid }
  | .sc6 f | .sc7 f | .sc8 f | .sc9 f =>
    { val0 := some f.val0, val1 := some f.val1, val2 := some f.val2, age := some f.age,
      countL1 := some f.countL1, countL2 := some f.countL2 }

/-- The tag of a variant (R31). -/
def Variant.tag : Variant → BitVec 4
  | .sc0 _ => 0
  | .sc1 _ => 1
  | .sc2 _ => 2
  | .sc3 _ => 3
  | .sc4 _ => 4
  | .sc5 _ => 5
  | .sc6 _ => 6
  | .sc7 _ => 7
  | .sc8 _ => 8
  | .sc9 _ => 9

/-- The registers `SC.*` after a decode of an optional variant (R35, R173, R195). For `None` no register
but `SC.present` holds a value (log entry 15). -/
def scOfChannel : Option Variant → ScRegs
  | some v => { scFields v with present := some true, tag := some v.tag }
  | none => { present := some false }

/-- The registers `PK.*` after a decode that produced a structure-A packet (R134, R152). -/
def pkOfA (a : StructureA) : PkRegs where
  kind := some .A
  navigationStatus := some a.navigationStatus
  time := some a.time
  accelerationX := some a.accelerationX
  accelerationY := some a.accelerationY
  accelerationZ := some a.accelerationZ
  angularRateX := some a.angularRateX
  angularRateY := some a.angularRateY
  angularRateZ := some a.angularRateZ
  checksum1Valid := some a.checksum1Valid
  latitude := some a.latitude
  longitude := some a.longitude
  altitude := some a.altitude
  velocityNorth := some a.velocityNorth
  velocityEast := some a.velocityEast
  velocityDown := some a.velocityDown
  heading := some a.heading
  pitch := some a.pitch
  roll := some a.roll
  checksum2Valid := some a.checksum2Valid
  checksum3Valid := some a.checksum3Valid

/-- The registers `PK.*` after a decode that produced a structure-B packet: no structure-A field holds a
value (R36, R154). -/
def pkOfB (b : StructureB) : PkRegs where
  kind := some .B
  navigationStatus := some b.navigationStatus
  checksum3Valid := some b.checksum3Valid

/-- The record registers after a decode that produced the packet. -/
def putPacket (p : Packet) (s : State) : State :=
  match p with
  | .structureA a => { s with pk := pkOfA a, sc := scOfChannel a.statusChannel }
  | .structureB b => { s with pk := pkOfB b, sc := {} }

/-- A register the host writes keeps its old content where the write has none. -/
def overlay {α : Type} (new old : Option α) : Option α :=
  match new with
  | some x => some x
  | none => old

/-- The host writes `FX.*` registers. -/
def overFx (n o : FxRegs) : FxRegs where
  v := overlay n.v o.v
  s := overlay n.s o.s
  n := overlay n.n o.n
  b0 := overlay n.b0 o.b0
  b1 := overlay n.b1 o.b1
  b2 := overlay n.b2 o.b2

/-- The host writes `PK.*` registers. -/
def overPk (n o : PkRegs) : PkRegs where
  kind := overlay n.kind o.kind
  navigationStatus := overlay n.navigationStatus o.navigationStatus
  time := overlay n.time o.time
  accelerationX := overlay n.accelerationX o.accelerationX
  accelerationY := overlay n.accelerationY o.accelerationY
  accelerationZ := overlay n.accelerationZ o.accelerationZ
  angularRateX := overlay n.angularRateX o.angularRateX
  angularRateY := overlay n.angularRateY o.angularRateY
  angularRateZ := overlay n.angularRateZ o.angularRateZ
  checksum1Valid := overlay n.checksum1Valid o.checksum1Valid
  latitude := overlay n.latitude o.latitude
  longitude := overlay n.longitude o.longitude
  altitude := overlay n.altitude o.altitude
  velocityNorth := overlay n.velocityNorth o.velocityNorth
  velocityEast := overlay n.velocityEast o.velocityEast
  velocityDown := overlay n.velocityDown o.velocityDown
  heading := overlay n.heading o.heading
  pitch := overlay n.pitch o.pitch
  roll := overlay n.roll o.roll
  checksum2Valid := overlay n.checksum2Valid o.checksum2Valid
  checksum3Valid := overlay n.checksum3Valid o.checksum3Valid

/-- The host writes `SC.*` registers. -/
def overSc (n o : ScRegs) : ScRegs where
  present := overlay n.present o.present
  tag := overlay n.tag o.tag
  fullTime := overlay n.fullTime o.fullTime
  numSatellites := overlay n.numSatellites o.numSatellites
  positionMode := overlay n.positionMode o.positionMode
  velocityMode := overlay n.velocityMode o.velocityMode
  orientationMode := overlay n.orientationMode o.orientationMode
  innovPosX := overlay n.innovPosX o.innovPosX
  innovPosY := overlay n.innovPosY o.innovPosY
  innovPosZ := overlay n.innovPosZ o.innovPosZ
  innovVelX := overlay n.innovVelX o.innovVelX
  innovVelY := overlay n.innovVelY o.innovVelY
  innovVelZ := overlay n.innovVelZ o.innovVelZ
  innovPitch := overlay n.innovPitch o.innovPitch
  innovHeading := overlay n.innovHeading o.innovHeading
  charsReceived := overlay n.charsReceived o.charsReceived
  packetsReceived := overlay n.packetsReceived o.packetsReceived
  charsNotUnderstood := overlay n.charsNotUnderstood o.charsNotUnderstood
  packetsNotUsed := overlay n.packetsNotUsed o.packetsNotUsed
  accNorth := overlay n.accNorth o.accNorth
  accEast := overlay n.accEast o.accEast
  accDown := overlay n.accDown o.accDown
  age := overlay n.age o.age
  deviceStatus := overlay n.deviceStatus o.deviceStatus
  accValid := overlay n.accValid o.accValid
  deviceStatusValid := overlay n.deviceStatusValid o.deviceStatusValid
  velAcc0 := overlay n.velAcc0 o.velAcc0
  velAcc1 := overlay n.velAcc1 o.velAcc1
  velAcc2 := overlay n.velAcc2 o.velAcc2
  processingMethod := overlay n.processingMethod o.processingMethod
  accHeading := overlay n.accHeading o.accHeading
  accPitch := overlay n.accPitch o.accPitch
  accRoll := overlay n.accRoll o.accRoll
  reserved := overlay n.reserved o.reserved
  val0 := overlay n.val0 o.val0
  val1 := overlay n.val1 o.val1
  val2 := overlay n.val2 o.val2
  countL1 := overlay n.countL1 o.countL1
  countL2 := overlay n.countL2 o.countL2

/-- One write of the host (R37, R263). A buffer is supplied whole: a byte the host does not supply holds
no value, and bytes past the end of `PB` or `SP` are ignored (R50, log entry 17). -/
def hostWrite : HostWrite → State → State
  | .fx r, s => { s with fx := overFx r s.fx }
  | .pk r, s => { s with pk := overPk r s.pk }
  | .sc r, s => { s with sc := overSc r s.sc }
  | .scTagByte b, s => { s with scTagByte := some b }
  | .sp bytes, s => { s with sp := Memory.ofBytes (bytes.take payLen) }
  | .pb bytes, s => { s with pb := Memory.ofBytes (bytes.take pktLen) }
  | .pbLen n, s => { s with pbLen := some n }
  | .sb bytes, s => { s with sb := Memory.ofBytes bytes }
  | .sbLen n, s => { s with sbLen := some n }

/-- The host issues a selector: a command code is written to `CMD.OP` (R95), and the event leaves the
script. -/
def issueFetch (sel : Selector) (rest : List HostEvent) (s : State) : State :=
  match sel with
  | .cmd op => { s with cmdOp := some op, host := rest }
  | .nav _ | .tagDec _ | .tagEnc _ | .byte0 _ _ | .sub _ => { s with host := rest }

/-- The next free value (R120), and the count of draws after `k` of them. -/
def drawFree (s : State) (k : Nat) : I32 := Config.freeI32 (s.freeCtr + k)

/-- `k` free values have been drawn. -/
def advanceFree (k : Nat) (s : State) : State := { s with freeCtr := s.freeCtr + k }

end Sys2Proof.Machine
end

