-- ==== Sys2Proof/Machine/Body.lean ====
section
/-! DEFINITION. The body codecs of the two structures (spec/42_structure_body.md): A.ENC, A.DEC, B.ENC,
B.DEC, and the out-of-set row of byte 21 (spec/41_envelope.md rule R135). As sub-operations they leave
`STATUS` and the envelope's bytes and fields to the command (log entry 7). -/

namespace Sys2Proof.Machine

/-- The fields `A.DEC` writes (R152): every structure-A field but the navigation status and
`checksum3Valid`, and the status channel. -/
def putBodyA (a : StructureA) (s : State) : State :=
  { s with
    pk := { pkOfA a with
      kind := s.pk.kind, navigationStatus := s.pk.navigationStatus,
      checksum3Valid := s.pk.checksum3Valid }
    sc := scOfChannel a.statusChannel }

/-- The effect of `A.DEC` (R152): its operands are offsets 1 to 70, so `PB[0]` and `PB[71]` need hold no
value; `putBodyA` takes none of the two fields that depend on them or belong to the envelope. -/
def bodyDecA (s : State) : Option State :=
  (bodyOperand s).map fun b => putBodyA (decodeA (numOf s.num) b) s

/-- `A.DEC` (R152). -/
def execADec (s : State) : Host.Outcome State Fault Refusal := runOp s (bodyDecA s)

/-- `B.DEC` (R154): no action; `PKT.DEC` writes the whole record. -/
def execBDec (s : State) : Host.Outcome State Fault Refusal := runOp s (some s)

/-- `ROUTE.OUTOFSET` (R135): an unrecognised navigation status ends with `ERR_NAV` (R234), or is decoded
as structure-A or structure-B, as `NAV_POLICY` says. -/
def execRouteOutOfSet (s : State) : Host.Outcome State Fault Refusal :=
  runOp s (match navPolicyOf s.navPolicy with
    | .reject => some (raise .unrecognizedNav s)
    | .acceptA => bodyDecA s
    | .routeB => some s)

/-- `A.ENC` (R150): offsets 1 to 70 of the packet buffer. -/
def execAEnc (s : State) : Host.Outcome State Fault Refusal :=
  runOp s ((structureAOperand s.pk s.sc).map fun a =>
    advanceFree 12 { s with pb := s.pb.writeRange 1 (bodyA (numOf s.num) (drawFree s) a) })

/-- `B.ENC` (R153): offsets 1 to 70 of the packet buffer. -/
def execBEnc (s : State) : Host.Outcome State Fault Refusal :=
  runOp s (s.pk.navigationStatus.map fun nav => { s with pb := s.pb.writeRange 1 (bodyB nav) })

end Sys2Proof.Machine
end

