-- ==== Sys2Proof/Machine/Envelope.lean ====
section
/-! DEFINITION. The packet envelope (spec/41_envelope.md): PKT.ENC, PKT.DEC, CSUM, ROUTE, the sync test,
and the illegal command codes (spec/30_encoding.md rule R96). -/

namespace Sys2Proof.Machine

/-- How many free integers an encode draws: one for each int24 field of structure-A (R122). -/
def drawsOf : Packet → Nat
  | .structureA _ => 12
  | .structureB _ => 0

/-- `PKT.ENC` (R132): all 72 bytes of the packet buffer. -/
def execPktEnc (s : State) : Host.Outcome State Fault Refusal :=
  runOp s ((packetOperand s.pk s.sc).map fun p =>
    complete (advanceFree (drawsOf p)
      { s with pb := s.pb.writeRange 0 (pktEncode (numOf s.num) (drawFree s) p) }))

/-- `PKT.DEC` (R134). The length is tested before any byte is read (R232); the 72 bytes must then hold
values (log entry 12). -/
def execPktDec (s : State) : Host.Outcome State Fault Refusal :=
  runOp s (match s.pbLen with
    | none => none
    | some len =>
      if len < pktLen then some (raise .structuralShort s)
      else (pbOperand s).map fun b =>
        match pktDecode (numOf s.num) s.navPolicy len b with
        | .ok p => complete (putPacket p s)
        | .error e => raise e s)

/-- `CSUM` (R130) of the packet buffer; the byte it answers is held in the model's `csumOut` (log entry
7). A range outside the buffer faults (log entry 19). -/
def execCsum (lo hi : Nat) (s : State) : Host.Outcome State Fault Refusal :=
  if lo ≤ hi ∧ hi < pktLen then
    runOp s ((s.pb.readRange lo (hi + 1 - lo)).map fun b => { s with csumOut := some (sum8 b) })
  else .fault .outsideBuffer

/-- `ROUTE` (R135) of the packet buffer's byte 21; its answer is held in the model's `routeOut` (log entry
7). -/
def execRoute (s : State) : Host.Outcome State Fault Refusal :=
  runOp s ((s.pb.read offNav).map fun nav =>
    { s with routeOut := some (routeOf s.navPolicy nav) })

/-- The envelope check (R134): another byte than the sync byte ends with `ERR_SYNC` (R233). -/
def syncEnvelope (s : State) : Option State :=
  (s.pb.read 0).map fun b =>
    if b = syncByte then { s with syncOut := some true }
    else raise .structuralSync { s with syncOut := some false }

/-- The candidate test (R211) at the scanner's position: another byte than the sync byte is a `SKIP`
(R213); a position at the end of the stream is no candidate. -/
def syncCandidate (s : State) : Option State :=
  (sbOperand s).map fun sb =>
    if sb.length ≤ s.scanPos then { s with syncOut := some false }
    else if byteAt sb s.scanPos = syncByte then { s with syncOut := some true }
    else { s with syncOut := some false, scanPos := s.scanPos + 1, scanOut := some .skip }

/-- `SYNC` (R70): byte 0 of a packet, or the byte at the scanner's position, against `0xE7`. -/
def execSync (site : SyncSite) (s : State) : Host.Outcome State Fault Refusal :=
  runOp s (match site with
    | .envelope => syncEnvelope s
    | .candidate => syncCandidate s)

/-- `ILLEGAL` (R96): a `PreconditionViolation` (R237 (a)). -/
def execIllegal (s : State) : Host.Outcome State Fault Refusal :=
  runOp s (some (raise .preconditionViolation s))

end Sys2Proof.Machine
end

