-- ==== Sys2Proof/Machine/FixedPoint.lean ====
section
/-! DEFINITION. The fixed-point family (spec/40_fixedpoint.md): ENC24, DEC24, I24.PACK, I24.UNPACK and
their floating-point halves QUANT and DEQUANT. -/

namespace Sys2Proof.Machine

/-- `FX.B <-` the low 24 bits of an integer (R110). -/
def putFxBytes (n : I32) (s : State) : State :=
  { s with fx := { s.fx with
      b0 := some (packByte n 0), b1 := some (packByte n 1), b2 := some (packByte n 2) } }

/-- `FX.N <-` an integer. -/
def putFxInt (n : I32) (s : State) : State := { s with fx := { s.fx with n := some n } }

/-- `FX.V <-` an `f32`. -/
def putFxValue (v : F32) (s : State) : State := { s with fx := { s.fx with v := some v } }

/-- `ENC24` (R114): `FX.N` is the quantised integer, or a free one where `QUANT` answers `OUT` (R120, log
entry 3); `FX.B` is its low 24 bits. -/
def execEnc24 (s : State) : Host.Outcome State Fault Refusal :=
  runOp s (match s.fx.v, s.fx.s with
    | some v, some sc =>
      let n := encInt (numOf s.num) (drawFree s 0) v sc
      some (complete (advanceFree 1 (putFxBytes n (putFxInt n s))))
    | _, _ => none)

/-- `DEC24` (R116): `FX.N` is the sign-extended integer, `FX.V` its product with the scale. -/
def execDec24 (s : State) : Host.Outcome State Fault Refusal :=
  runOp s (match fxBytes s.fx, s.fx.s with
    | some (b0, b1, b2), some sc =>
      let n := unpack24 b0 b1 b2
      some (complete (putFxValue (dequantOf (numOf s.num) n sc) (putFxInt n s)))
    | _, _ => none)

/-- `I24.PACK` (R110). -/
def execI24Pack (s : State) : Host.Outcome State Fault Refusal :=
  runOp s (s.fx.n.map fun n => complete (putFxBytes n s))

/-- `I24.UNPACK` (R111). -/
def execI24Unpack (s : State) : Host.Outcome State Fault Refusal :=
  runOp s ((fxBytes s.fx).map fun (b0, b1, b2) => complete (putFxInt (unpack24 b0 b1 b2) s))

/-- `QUANT` (R113), the first half of `ENC24` (R99): its integer goes to `FX.N`, a free one for `OUT`
(R114, R120). A sub-operation leaves `STATUS` to the command (log entry 7). -/
def execQuant (s : State) : Host.Outcome State Fault Refusal :=
  runOp s (match s.fx.v, s.fx.s with
    | some v, some sc =>
      some (advanceFree 1 (putFxInt (encInt (numOf s.num) (drawFree s 0) v sc) s))
    | _, _ => none)

/-- `DEQUANT` (R115), the second half of `DEC24` (R99): `FX.V` from `FX.N` and the scale. -/
def execDequant (s : State) : Host.Outcome State Fault Refusal :=
  runOp s (match s.fx.n, s.fx.s with
    | some n, some sc => some (putFxValue (dequantOf (numOf s.num) n sc) s)
    | _, _ => none)

end Sys2Proof.Machine
end

