-- ==== Sys2Proof/Machine/Scanner.lean ====
section
/-! DEFINITION. The packet synchroniser and framer (spec/44_scanner.md): SCAN.INIT, SCAN.STEP, SCAN. -/

namespace Sys2Proof.Machine

/-- `SB_LEN > SB_MAX` (R210, R237 (b)); never where `SB_MAX` is unbounded (D6). -/
def tooLong (s : State) (len : Nat) : Bool :=
  match s.sbMax with
  | some m => decide (m < len)
  | none => false

/-- The registers a scan writes. -/
def putScan (r : ScanOutcome × Nat × List Packet) (s : State) : State :=
  { s with scanOut := some r.1, scanPos := r.2.1, outq := r.2.2 }

/-- `SCAN.INIT` (R210): position 0, an empty queue. -/
def execScanInit (s : State) : Host.Outcome State Fault Refusal :=
  runOp s (match s.sbLen with
    | none => none
    | some len => if tooLong s len then none else some { s with scanPos := 0, outq := [] })

/-- `SCAN.STEP` (R213); its outcome is held in the model's `scanOut` (log entry 7). `STATUS` is not changed
by a step. -/
def execScanStep (s : State) : Host.Outcome State Fault Refusal :=
  runOp s ((sbOperand s).map fun sb =>
    putScan (scanStepOf (numOf s.num) s.navPolicy s.chkRejectMask sb s.scanPos s.outq) s)

/-- `SCAN` (R214). -/
def execScan (s : State) : Host.Outcome State Fault Refusal :=
  runOp s (match s.sbLen with
    | none => none
    | some len =>
      if tooLong s len then none
      else (sbOperand s).map fun sb =>
        complete (putScan (scanAll (numOf s.num) s.navPolicy s.chkRejectMask sb) s))

end Sys2Proof.Machine
end

