-- ==== Sys2Proof/Machine/StatusChannel.lean ====
section
/-! DEFINITION. The status channel (spec/43_status_channel.md): SC.LOOKUP, SC.ENC, SC.DEC, and the ten
variant codecs with SCNONE as sub-operations (log entry 7). -/

namespace Sys2Proof.Machine

/-- `SP <-` eight bytes. -/
def putPayload (bytes : List Byte) (s : State) : State := { s with sp := s.sp.writeRange 0 bytes }

/-- The fields of the variant a row decodes, and of no other (R35); `SC.present` and `SC.tag` are the
lookup's (R170, R173). -/
def putVariant (v : Variant) (s : State) : State :=
  { s with sc := { scFields v with present := s.sc.present, tag := s.sc.tag } }

/-- `SC.LOOKUP` (R170): `SC.present`, and `SC.tag` when the tag is registered; no other register (log entry
14). -/
def execScLookup (s : State) : Host.Outcome State Fault Refusal :=
  runOp s (s.scTagByte.map fun tag =>
    match registry tag with
    | some t => complete { s with sc := { s.sc with present := some true, tag := some t } }
    | none => complete { s with sc := { s.sc with present := some false } })

/-- `SC.ENC` (R172): `SC.TAGBYTE` and all of `SP`. `SC.tag` in 10..15 is a `PreconditionViolation` (R237
(c)), as is a field without a value. -/
def execScEnc (s : State) : Host.Outcome State Fault Refusal :=
  runOp s ((channelOperand s.sc).map fun c =>
    complete (putPayload (channelPayload c) { s with scTagByte := some (tagByteOf c) }))

/-- `SC.DEC` (R173). The payload is an operand only where the registry knows the tag: for an unknown one
"the eight payload bytes are not read" (R195, log entry 13). -/
def execScDec (s : State) : Host.Outcome State Fault Refusal :=
  runOp s (match s.scTagByte with
    | none => none
    | some tag =>
      match registry tag with
      | none => some (complete { s with sc := scOfChannel none })
      | some _ => (spOperand s).map fun p => complete { s with sc := scOfChannel (channelOf tag p) })

/-- `SC0.ENC` (R174): full time and modes. -/
def execSc0Enc (s : State) : Host.Outcome State Fault Refusal :=
  runOp s ((sc0Operand s.sc).map fun f => putPayload (sc0Bytes f) s)

/-- `SC0.DEC` (R175): full time and modes. -/
def execSc0Dec (s : State) : Host.Outcome State Fault Refusal :=
  runOp s ((spOperand s).map fun p => putVariant (.sc0 (sc0Of p)) s)

/-- `SC1.ENC` (R176): innovations. -/
def execSc1Enc (s : State) : Host.Outcome State Fault Refusal :=
  runOp s ((sc1Operand s.sc).map fun f => putPayload (sc1Bytes f) s)

/-- `SC1.DEC` (R177): innovations. -/
def execSc1Dec (s : State) : Host.Outcome State Fault Refusal :=
  runOp s ((spOperand s).map fun p => putVariant (.sc1 (sc1Of p)) s)

/-- `SC2.ENC` (R178): primary receiver link health. -/
def execSc2Enc (s : State) : Host.Outcome State Fault Refusal :=
  runOp s ((sc2Operand s.sc).map fun f => putPayload (sc2Bytes f) s)

/-- `SC2.DEC` (R179): primary receiver link health. -/
def execSc2Dec (s : State) : Host.Outcome State Fault Refusal :=
  runOp s ((spOperand s).map fun p => putVariant (.sc2 (sc2Of p)) s)

/-- `SC3.ENC` (R180): position accuracy. -/
def execSc3Enc (s : State) : Host.Outcome State Fault Refusal :=
  runOp s ((sc3Operand s.sc).map fun f => putPayload (sc3Bytes f) s)

/-- `SC3.DEC` (R181): position accuracy. -/
def execSc3Dec (s : State) : Host.Outcome State Fault Refusal :=
  runOp s ((spOperand s).map fun p => putVariant (.sc3 (sc3Of p)) s)

/-- `SC4.ENC` (R182): velocity accuracy. -/
def execSc4Enc (s : State) : Host.Outcome State Fault Refusal :=
  runOp s ((sc4Operand s.sc).map fun f => putPayload (sc4Bytes f) s)

/-- `SC4.DEC` (R183): velocity accuracy. -/
def execSc4Dec (s : State) : Host.Outcome State Fault Refusal :=
  runOp s ((spOperand s).map fun p => putVariant (.sc4 (sc4Of p)) s)

/-- `SC5.ENC` (R184): orientation accuracy. -/
def execSc5Enc (s : State) : Host.Outcome State Fault Refusal :=
  runOp s ((sc5Operand s.sc).map fun f => putPayload (sc5Bytes f) s)

/-- `SC5.DEC` (R185): orientation accuracy. -/
def execSc5Dec (s : State) : Host.Outcome State Fault Refusal :=
  runOp s ((spOperand s).map fun p => putVariant (.sc5 (sc5Of p)) s)

/-- `SC6.ENC` (R186): gyro bias. -/
def execSc6Enc (s : State) : Host.Outcome State Fault Refusal :=
  runOp s ((scValsOperand s.sc).map fun f => putPayload (scValsBytes f) s)

/-- `SC6.DEC` (R187): gyro bias. -/
def execSc6Dec (s : State) : Host.Outcome State Fault Refusal :=
  runOp s ((spOperand s).map fun p => putVariant (.sc6 (scValsOf p)) s)

/-- `SC7.ENC` (R188): accelerometer bias. -/
def execSc7Enc (s : State) : Host.Outcome State Fault Refusal :=
  runOp s ((scValsOperand s.sc).map fun f => putPayload (scValsBytes f) s)

/-- `SC7.DEC` (R189): accelerometer bias. -/
def execSc7Dec (s : State) : Host.Outcome State Fault Refusal :=
  runOp s ((spOperand s).map fun p => putVariant (.sc7 (scValsOf p)) s)

/-- `SC8.ENC` (R190): gyro scale factor. -/
def execSc8Enc (s : State) : Host.Outcome State Fault Refusal :=
  runOp s ((scValsOperand s.sc).map fun f => putPayload (scValsBytes f) s)

/-- `SC8.DEC` (R191): gyro scale factor. -/
def execSc8Dec (s : State) : Host.Outcome State Fault Refusal :=
  runOp s ((spOperand s).map fun p => putVariant (.sc8 (scValsOf p)) s)

/-- `SC9.ENC` (R192): gyro bias accuracy. -/
def execSc9Enc (s : State) : Host.Outcome State Fault Refusal :=
  runOp s ((scValsOperand s.sc).map fun f => putPayload (scValsBytes f) s)

/-- `SC9.DEC` (R193): gyro bias accuracy. -/
def execSc9Dec (s : State) : Host.Outcome State Fault Refusal :=
  runOp s ((spOperand s).map fun p => putVariant (.sc9 (scValsOf p)) s)

/-- `SCNONE.ENC` (R194): tag 0xFF and eight zero bytes. -/
def execScNoneEnc (s : State) : Host.Outcome State Fault Refusal :=
  runOp s (some (putPayload (channelPayload none) { s with scTagByte := some tagNone }))

/-- `SCNONE.DEC` (R195): no status channel; no field of any variant holds a value. -/
def execScNoneDec (s : State) : Host.Outcome State Fault Refusal :=
  runOp s (some { s with sc := scOfChannel none })

end Sys2Proof.Machine
end

