-- ==== Sys2Proof/Machine/Dispatch.lean ====
section
/-! DEFINITION. Which meaning each operation has. -/

namespace Sys2Proof.Machine

def exec (i : Instr) (s : State) : Host.Outcome State Fault Refusal :=
  match i with
  | .enc24 => Sys2Proof.Machine.execEnc24 s
  | .dec24 => Sys2Proof.Machine.execDec24 s
  | .pktEnc => Sys2Proof.Machine.execPktEnc s
  | .pktDec => Sys2Proof.Machine.execPktDec s
  | .scEnc => Sys2Proof.Machine.execScEnc s
  | .scDec => Sys2Proof.Machine.execScDec s
  | .scLookup => Sys2Proof.Machine.execScLookup s
  | .scan => Sys2Proof.Machine.execScan s
  | .i24Pack => Sys2Proof.Machine.execI24Pack s
  | .i24Unpack => Sys2Proof.Machine.execI24Unpack s
  | .illegal _ => Sys2Proof.Machine.execIllegal s
  | .bDec => Sys2Proof.Machine.execBDec s
  | .aDec _ => Sys2Proof.Machine.execADec s
  | .routeOutOfSet _ => Sys2Proof.Machine.execRouteOutOfSet s
  | .sc0Dec => Sys2Proof.Machine.execSc0Dec s
  | .sc0Enc => Sys2Proof.Machine.execSc0Enc s
  | .sc1Dec => Sys2Proof.Machine.execSc1Dec s
  | .sc1Enc => Sys2Proof.Machine.execSc1Enc s
  | .sc2Dec => Sys2Proof.Machine.execSc2Dec s
  | .sc2Enc => Sys2Proof.Machine.execSc2Enc s
  | .sc3Dec => Sys2Proof.Machine.execSc3Dec s
  | .sc3Enc => Sys2Proof.Machine.execSc3Enc s
  | .sc4Dec => Sys2Proof.Machine.execSc4Dec s
  | .sc4Enc => Sys2Proof.Machine.execSc4Enc s
  | .sc5Dec => Sys2Proof.Machine.execSc5Dec s
  | .sc5Enc => Sys2Proof.Machine.execSc5Enc s
  | .sc6Dec => Sys2Proof.Machine.execSc6Dec s
  | .sc6Enc => Sys2Proof.Machine.execSc6Enc s
  | .sc7Dec => Sys2Proof.Machine.execSc7Dec s
  | .sc7Enc => Sys2Proof.Machine.execSc7Enc s
  | .sc8Dec => Sys2Proof.Machine.execSc8Dec s
  | .sc8Enc => Sys2Proof.Machine.execSc8Enc s
  | .sc9Dec => Sys2Proof.Machine.execSc9Dec s
  | .sc9Enc => Sys2Proof.Machine.execSc9Enc s
  | .scNoneDec _ => Sys2Proof.Machine.execScNoneDec s
  | .scNoneEnc => Sys2Proof.Machine.execScNoneEnc s
  | .csum lo hi => Sys2Proof.Machine.execCsum lo hi s
  | .quant => Sys2Proof.Machine.execQuant s
  | .dequant => Sys2Proof.Machine.execDequant s
  | .route => Sys2Proof.Machine.execRoute s
  | .aEnc => Sys2Proof.Machine.execAEnc s
  | .bEnc => Sys2Proof.Machine.execBEnc s
  | .scanInit => Sys2Proof.Machine.execScanInit s
  | .scanStep => Sys2Proof.Machine.execScanStep s
  | .sync site => Sys2Proof.Machine.execSync site s

end Sys2Proof.Machine
end

