-- ==== Sys2Proof/Machine/Step.lean ====
section
/-! DEFINITION. One step: the host's next event (spec/20_memory.md rules R59 to R61: one command at a
time, in the order the host issues them; spec/70_reset_and_hazards.md rule R261: reset between two
commands). The block has no instruction memory; a program is the host's script (log entry 1). -/

namespace Sys2Proof.Machine

/-- One step of the machine. With no event to come the block is idle and nothing changes. -/
def step (s : State) : Host.Outcome State Fault Refusal :=
  match s.host with
  | [] => .next s
  | .write w :: rest => .next (hostWrite w { s with host := rest })
  | .reset policy mask :: rest => .next (resetBlock policy mask { s with host := rest })
  | .issue sel :: rest =>
    match decode sel with
    | .ok i => exec i (issueFetch sel rest s)
    | .error _ => .refused .noSuchRow

/-- The state in which the host's next event issues the operation of an opcode-table word. A word that is
no row leaves the state as it is. -/
def State.withFetchWord (s : State) (nbits w : Nat) : State :=
  match selectorOfTableWord nbits w with
  | some sel => { s with host := .issue sel :: s.host }
  | none => s

end Sys2Proof.Machine
end

