-- ==== Sys2Proof/Safety.lean ====
section
/-! DEFINITION. What counts as a good state and a safe run, and the words the statements are made of that
the machine itself does not use: signed numbers, what a store leaves in a buffer, the scanner as a
relation (spec/44_scanner.md rule R216). -/

namespace Sys2Proof.Machine

/-- `signed_24(u)` (R11, R73). -/
def signed24 (u : Nat) : Int := if u < 2 ^ 23 then (u : Int) else (u : Int) - 2 ^ 24

/-- The state a `PreconditionViolation` leaves (R237): `FAULT` and `STATUS` written, nothing else. -/
def State.violated (s : State) : State := { s with fault := true, status := 7 }

/-- Every offset of `new` reads as before in `old`, but for the stored bytes at `off`. -/
def StoredAt (new old : Memory) (off : Nat) (bytes : List Byte) : Prop :=
  ∀ a, new.read a = if off ≤ a ∧ a < off + bytes.length then bytes[a - off]? else old.read a

/-- The int24 field at `off` of a packet holds `round(v/s)` mod 2^24 where `QUANT` gives an integer, and
any 24 bits where it answers `OUT` (R73, R114, R120, log entry 25). -/
def Int24At (num : NumRec) (b : List Byte) (off : Nat) (v s : F32) : Prop :=
  ∃ n : I32, (∀ q, quantOf num v s = some q → n = q) ∧ memRead b off 3 = n.toNat % 2 ^ 24

/-- The `f32` an int24 field decodes to (R116, R152). -/
def int24Value (num : NumRec) (b : List Byte) (off : Nat) (s : F32) : F32 :=
  dequantOf num (BitVec.ofInt 32 (signed24 (memRead b off 3))) s

/-- What the block's own rules say of every state it can be in: each buffer is in its canonical form and
inside its space (R50), `STATUS` holds a code that is written (R24, R231), and it is `FAULTED` exactly
while `FAULT` is set (R23, R231). -/
structure State.Inv (s : State) : Prop where
  sp_wf : s.sp.wf
  pb_wf : s.pb.wf
  sb_wf : s.sb.wf
  sp_inside : ∀ c ∈ s.sp, c.1 < payLen
  pb_inside : ∀ c ∈ s.pb, c.1 < pktLen
  status_written : s.status ∈ [statusOk, statusErrShort, statusErrSync, statusErrNav, statusFaulted]
  faulted_iff : s.fault = true ↔ s.status = statusFaulted

/-- An event the host of the hardware can cause (R97): a write, a reset, or a command code issued. -/
def HostEvent.isHosts : HostEvent → Bool
  | .write _ => true
  | .reset _ _ => true
  | .issue (.cmd _) => true
  | .issue (.nav _) => false
  | .issue (.tagDec _) => false
  | .issue (.tagEnc _) => false
  | .issue (.byte0 _ _) => false
  | .issue (.sub _) => false

/-- A safe run: `k` steps, none of which stops. -/
def SafeRun (k : Nat) (s : State) : Prop := ∃ t, Host.Core.run Sys2Proof.core k s = .next t

/-- `scan_from(p)` (R216) as a relation between a position and the packets found from it on. -/
inductive ScanFrom (num : NumRec) (policy : BitVec 2) (mask : BitVec 3) (sb : List Byte) :
    Nat → List Packet → Prop
  | atEnd (p : Nat) : sb.length ≤ p → ScanFrom num policy mask sb p []
  | skip (p : Nat) (q : List Packet) : p < sb.length → byteAt sb p ≠ 0xE7 →
      ScanFrom num policy mask sb (p + 1) q → ScanFrom num policy mask sb p q
  | short (p : Nat) : p < sb.length → byteAt sb p = 0xE7 → sb.length - p < 72 →
      ScanFrom num policy mask sb p []
  | accept (p : Nat) (pkt : Packet) (q : List Packet) : byteAt sb p = 0xE7 → 72 ≤ sb.length - p →
      accepts num policy mask (slice sb p 72) = some pkt →
      ScanFrom num policy mask sb (p + 72) q → ScanFrom num policy mask sb p (pkt :: q)
  | reject (p : Nat) (q : List Packet) : byteAt sb p = 0xE7 → 72 ≤ sb.length - p →
      accepts num policy mask (slice sb p 72) = none →
      ScanFrom num policy mask sb (p + 1) q → ScanFrom num policy mask sb p q

/-- The meaning of one operation after another, where the first goes on. -/
def andThen (r : Host.Outcome State Fault Refusal) (f : State → Host.Outcome State Fault Refusal) :
    Host.Outcome State Fault Refusal :=
  match r with
  | .next t => f t
  | .fault e => .fault e
  | .refused e => .refused e

end Sys2Proof.Machine
end

