-- ==== Sys2Proof/Certificates/Slice0/Obligations.lean ====
section
/-! DEFINITION. The statements for the provers. Each docstring names the rules of spec/ it comes from;
what is the model's own choice is said with its log entry. -/

open Sys2Proof Sys2Proof.Machine

/-! ### Encoding and dispatch -/

/-- R95: the ten command codes. -/
def Obligations.CommandCodesSelectOperations : Prop :=
  decode (.cmd 0x1) = .ok .enc24 ∧ decode (.cmd 0x2) = .ok .dec24 ∧
  decode (.cmd 0x3) = .ok .pktEnc ∧ decode (.cmd 0x4) = .ok .pktDec ∧
  decode (.cmd 0x5) = .ok .scEnc ∧ decode (.cmd 0x6) = .ok .scDec ∧
  decode (.cmd 0x7) = .ok .scLookup ∧ decode (.cmd 0x8) = .ok .scan ∧
  decode (.cmd 0x9) = .ok .i24Pack ∧ decode (.cmd 0xA) = .ok .i24Unpack

/-- R96, R237 (a): the codes 0x0 and 0xB to 0xF select no operation, and issuing one sets `FAULT` and
`STATUS` and writes nothing else. -/
def Obligations.IllegalCodesViolate : Prop :=
  ∀ op : BitVec 4,
    (decode (.cmd op) = .ok (.illegal op) ↔ op = 0 ∨ 0xB ≤ op.toNat) ∧
    ∀ s : State, s.fault = false → exec (.illegal op) s = .next s.violated

/-- R90, R92, R93, R100: byte 21 selects the packet format and byte 62 the payload format of a decode; the
tags an encode writes are 0 to 9 and 0xFF. -/
def Obligations.DispatchBytesSelectRows : Prop :=
  (∀ b : Byte,
    decode (.nav b) =
      if b = 11 then .ok .bDec
      else if b ∈ ([0, 1, 2, 3, 4, 5, 6, 7, 10, 20, 21, 22] : List Byte) then .ok (.aDec b)
      else .ok (.routeOutOfSet b)) ∧
  (decode (.tagDec 0) = .ok .sc0Dec ∧ decode (.tagDec 1) = .ok .sc1Dec ∧
    decode (.tagDec 2) = .ok .sc2Dec ∧ decode (.tagDec 3) = .ok .sc3Dec ∧
    decode (.tagDec 4) = .ok .sc4Dec ∧ decode (.tagDec 5) = .ok .sc5Dec ∧
    decode (.tagDec 6) = .ok .sc6Dec ∧ decode (.tagDec 7) = .ok .sc7Dec ∧
    decode (.tagDec 8) = .ok .sc8Dec ∧ decode (.tagDec 9) = .ok .sc9Dec) ∧
  (∀ b : Byte, 10 ≤ b.toNat → decode (.tagDec b) = .ok (.scNoneDec b)) ∧
  decode (.tagEnc 0xFF) = .ok .scNoneEnc ∧
  (∀ b : Byte, 10 ≤ b.toNat → b.toNat ≤ 254 → decode (.tagEnc b) = .error .noEncodeTag)
/-- Decode and encode agree: every well-formed operation, whatever its operand, is the one its selector
decodes to, and a selector that decodes is the selector of the well-formed operation it gives. -/
def Obligations.DecodeAndEncodeAgree : Prop :=
  (∀ i : Instr, i.wellFormed = true → decode (encode i) = .ok i) ∧
  (∀ (sel : Selector) (i : Instr), decode sel = .ok i → i.wellFormed = true ∧ encode i = sel)
/-! ### The step -/

/-- A step runs the decoded operation: `CMD.OP` holds the issued code and the event has left the host's
script (the script is the model's, log entry 1). -/
def Obligations.StepRunsDecodedOperation : Prop :=
  ∀ (s : State) (rest : List HostEvent) (i : Instr), i.wellFormed = true →
    (∀ op, s.host = .issue (.cmd op) :: rest → decode (.cmd op) = .ok i →
      step s = exec i { s with cmdOp := some op, host := rest }) ∧
    (∀ sel, s.host = .issue sel :: rest → (∀ op, sel ≠ .cmd op) → decode sel = .ok i →
      step s = exec i { s with host := rest })

/-- R260: what a reset event leaves. The count of free values and the script are the model's (log
entries 1, 3, 6). -/
def Obligations.ResetEventRestoresResetState : Prop :=
  ∀ (s : State) (policy : BitVec 2) (mask : BitVec 3) (rest : List HostEvent),
    s.host = .reset policy mask :: rest →
    ∃ t, step s = .next t ∧ t.fault = false ∧ t.status = 0 ∧ t.scanPos = 0 ∧ t.outq = [] ∧
      t.cmdOp = none ∧ t.fx = {} ∧ t.pk = {} ∧ t.sc = {} ∧ t.scTagByte = none ∧
      (∀ a, t.sp.read a = none) ∧ (∀ a, t.pb.read a = none) ∧ t.pbLen = none ∧
      (∀ a, t.sb.read a = none) ∧ t.sbLen = none ∧
      t.navPolicy = policy ∧ t.chkRejectMask = mask ∧ t.sbMax = s.sbMax ∧ t.num = s.num ∧
      t.host = rest

/-- R38: the values after reset, with the default straps of R9 (log entry 6). -/
def Obligations.ResetStateHoldsResetValues : Prop :=
  State.reset.fault = false ∧ State.reset.status = 0 ∧ State.reset.scanPos = 0 ∧
  State.reset.outq = [] ∧ State.reset.cmdOp = none ∧ State.reset.fx = {} ∧
  State.reset.pk = {} ∧ State.reset.sc = {} ∧ State.reset.scTagByte = none ∧
  (∀ a, State.reset.sp.read a = none) ∧ (∀ a, State.reset.pb.read a = none) ∧
  State.reset.pbLen = none ∧ (∀ a, State.reset.sb.read a = none) ∧ State.reset.sbLen = none ∧
  navPolicyOf State.reset.navPolicy = .reject ∧ State.reset.chkRejectMask = 0

/-- Every well-formed operation goes on in every state (R15, R237, R240: an error is a status, never an end),
so whatever the host of the hardware does, a run over a script of writes, resets and command codes never
stops. This rests on choices of the model: an operand without a value is a fault and not a refused call,
which R237 (d) and U7 also allow (log entry 4), sub-operations can be run on their own (log entry 7), and
the script is the model's form of the host (log entry 1). -/
def Obligations.HostScriptsNeverStop : Prop :=
  (∀ (i : Instr) (s : State), i.wellFormed = true → ∃ t, exec i s = .next t) ∧
  (∀ (k : Nat) (s : State), (∀ e ∈ s.host, e.isHosts = true) → SafeRun k s)
/-! ### FAULT, STATUS and what every step keeps -/

/-- `FAULT` (R23) is 0 after reset; while it is set an operation writes `STATUS = FAULTED` and nothing
else; an operation sets it only by a `PreconditionViolation`, which writes nothing else; a step clears
it only by a reset event. R23 says this of commands; that a sub-operation run on its own is held back too
is the model's (log entry 7). -/
def Obligations.FaultIsStickyUntilReset : Prop :=
  State.reset.fault = false ∧
  (∀ (i : Instr) (s : State), i.wellFormed = true → s.fault = true →
    exec i s = .next { s with status := 7 }) ∧
  (∀ (i : Instr) (s t : State), exec i s = .next t → s.fault = false → t.fault = true →
    t = s.violated) ∧
  (∀ s t : State, step s = .next t → s.fault = true → t.fault = false →
    ∃ policy mask rest, s.host = .reset policy mask :: rest)

/-- Every step keeps the invariant: canonical buffers inside their spaces (R50), a written status code
(R24, R231), `STATUS = FAULTED` exactly while `FAULT` is set. -/
def Obligations.StepKeepsInvariant : Prop :=
  ∀ s t : State, s.Inv → step s = .next t → t.Inv

/-- The state after reset satisfies the invariant. -/
def Obligations.ResetSatisfiesInvariant : Prop := State.reset.Inv

/-- R22, R260: the straps are constant but for a reset event, which samples them; `SB_MAX` and `NUM` are
never changed. -/
def Obligations.ConfigurationChangesOnlyAtReset : Prop :=
  ∀ s t : State, step s = .next t →
    t.sbMax = s.sbMax ∧ t.num = s.num ∧
    ((t.navPolicy = s.navPolicy ∧ t.chkRejectMask = s.chkRejectMask) ∨
      ∃ rest, s.host = .reset t.navPolicy t.chkRejectMask :: rest)

/-- R271 and R58: the block writes `PB` only in `PKT.ENC` (by its body rows), `SP` only in `SC.ENC` (by
its rows), `FX.B` only in `ENC24` and `I24.PACK`, and never writes `SB`, a length or `CMD.OP`. -/
def Obligations.OnlyEncodersWriteBuffers : Prop :=
  ∀ (i : Instr) (s t : State), exec i s = .next t →
    t.sb = s.sb ∧ t.sbLen = s.sbLen ∧ t.pbLen = s.pbLen ∧ t.cmdOp = s.cmdOp ∧ t.host = s.host ∧
    (i ∉ [.pktEnc, .aEnc, .bEnc] → t.pb = s.pb) ∧
    (i ∉ [.scEnc, .sc0Enc, .sc1Enc, .sc2Enc, .sc3Enc, .sc4Enc, .sc5Enc, .sc6Enc, .sc7Enc, .sc8Enc,
      .sc9Enc, .scNoneEnc] → t.sp = s.sp) ∧
    (i ∉ [.enc24, .i24Pack] → t.fx.b0 = s.fx.b0 ∧ t.fx.b1 = s.fx.b1 ∧ t.fx.b2 = s.fx.b2) ∧
    (i ∉ [.scan, .scanInit, .scanStep, .sync .candidate] →
      t.scanPos = s.scanPos ∧ t.outq = s.outq)

/-- R237 (d) with the register view of R33: a command whose operands hold no value is a
`PreconditionViolation` that writes nothing but `FAULT` and `STATUS`. That the model faults here, and
does not refuse the call, is its choice between the two that R237 allows (log entry 4); which operands a
decode needs is its reading (log entries 12, 13). -/
def Obligations.ValuelessOperandsViolate : Prop :=
  ∀ s : State, s.fault = false →
    (s.fx.v = none ∨ s.fx.s = none → exec .enc24 s = .next s.violated) ∧
    (s.fx.b0 = none ∨ s.fx.b1 = none ∨ s.fx.b2 = none ∨ s.fx.s = none →
      exec .dec24 s = .next s.violated) ∧
    (s.fx.n = none → exec .i24Pack s = .next s.violated) ∧
    (s.fx.b0 = none ∨ s.fx.b1 = none ∨ s.fx.b2 = none → exec .i24Unpack s = .next s.violated) ∧
    (s.pk.kind = none ∨ s.pk.navigationStatus = none → exec .pktEnc s = .next s.violated) ∧
    (s.pk.kind = some .A →
      (s.pk.time = none ∨ s.pk.accelerationX = none ∨ s.pk.accelerationY = none ∨
        s.pk.accelerationZ = none ∨ s.pk.angularRateX = none ∨ s.pk.angularRateY = none ∨
        s.pk.angularRateZ = none ∨ s.pk.latitude = none ∨ s.pk.longitude = none ∨
        s.pk.altitude = none ∨ s.pk.velocityNorth = none ∨ s.pk.velocityEast = none ∨
        s.pk.velocityDown = none ∨ s.pk.heading = none ∨ s.pk.pitch = none ∨ s.pk.roll = none ∨
        channelOperand s.sc = none) →
      exec .pktEnc s = .next s.violated) ∧
    (s.pbLen = none ∨ (∃ n, s.pbLen = some n ∧ 72 ≤ n ∧ ∃ a, a < 72 ∧ s.pb.read a = none) →
      exec .pktDec s = .next s.violated) ∧
    (channelOperand s.sc = none → exec .scEnc s = .next s.violated) ∧
    (s.sc.present = none ∨ (s.sc.present = some true ∧ s.sc.tag = none) →
      channelOperand s.sc = none) ∧
    (s.scTagByte = none → exec .scDec s = .next s.violated ∧ exec .scLookup s = .next s.violated) ∧
    (∀ tag a, s.scTagByte = some tag → tag.toNat ≤ 9 → a < 8 → s.sp.read a = none →
      exec .scDec s = .next s.violated) ∧
    (s.sbLen = none ∨ (∃ n, s.sbLen = some n ∧ ∃ a, a < n ∧ s.sb.read a = none) →
      exec .scan s = .next s.violated)
/-- R15, R39: a decode and a scan depend on their operands, the configuration and `FAULT` alone, never on
what an earlier operation left in the record registers, `OUTQ` or `SCAN_POS`. -/
def Obligations.NoHistoryReachesTheResults : Prop :=
  ∀ r s t u : State, r.fault = s.fault → r.num = s.num → r.navPolicy = s.navPolicy →
    (r.pb = s.pb → r.pbLen = s.pbLen → exec .pktDec r = .next t → exec .pktDec s = .next u →
      t.status = u.status ∧ t.fault = u.fault ∧ (t.fault = false → t.pk = u.pk ∧ t.sc = u.sc)) ∧
    (r.scTagByte = s.scTagByte → r.sp = s.sp → exec .scDec r = .next t → exec .scDec s = .next u →
      t.status = u.status ∧ t.fault = u.fault ∧ (t.fault = false → t.sc = u.sc)) ∧
    (r.sb = s.sb → r.sbLen = s.sbLen → r.sbMax = s.sbMax → r.chkRejectMask = s.chkRejectMask →
      exec .scan r = .next t → exec .scan s = .next u →
      t.status = u.status ∧ t.fault = u.fault ∧
        (t.fault = false → t.scanPos = u.scanPos ∧ t.outq = u.outq))

/-! ### The fixed-point codec -/

/-- R110: `I24.PACK` writes the low 24 bits, least significant byte first, and nothing else but
`STATUS`. -/
def Obligations.PackWritesLowTwentyFourBits : Prop :=
  ∀ (s : State) (n : I32), s.fault = false → s.fx.n = some n →
    ∃ b0 b1 b2 : Byte,
      exec .i24Pack s =
        .next { s with fx := { s.fx with b0 := some b0, b1 := some b1, b2 := some b2 }, status := 0 } ∧
      b0.toNat + 256 * b1.toNat + 65536 * b2.toNat = n.toNat % 2 ^ 24

/-- R111: `I24.UNPACK` sign-extends the three bytes into `FX.N`; R73: the number they hold. -/
def Obligations.UnpackSignExtends : Prop :=
  ∀ (s : State) (b0 b1 b2 : Byte), s.fault = false →
    s.fx.b0 = some b0 → s.fx.b1 = some b1 → s.fx.b2 = some b2 →
    ∃ n : I32, exec .i24Unpack s = .next { s with fx := { s.fx with n := some n }, status := 0 } ∧
      n.toInt = signed24 (b0.toNat + 256 * b1.toNat + 65536 * b2.toNat) ∧
      -2 ^ 23 ≤ n.toInt ∧ n.toInt < 2 ^ 23

/-- R112: the laws of the integer half, as one command after the other. -/
def Obligations.PackUnpackLaws : Prop :=
  (∀ (s : State) (n : I32), s.fault = false → s.fx.n = some n →
    ∃ t m, andThen (exec .i24Pack s) (exec .i24Unpack) = .next t ∧ t.fx.n = some m ∧
      m.toInt = signed24 (n.toNat % 2 ^ 24) ∧
      (m = n ↔ -2 ^ 23 ≤ n.toInt ∧ n.toInt < 2 ^ 23)) ∧
  (∀ (s : State) (b0 b1 b2 : Byte), s.fault = false →
    s.fx.b0 = some b0 → s.fx.b1 = some b1 → s.fx.b2 = some b2 →
    ∃ t, andThen (exec .i24Unpack s) (exec .i24Pack) = .next t ∧
      t.fx.b0 = some b0 ∧ t.fx.b1 = some b1 ∧ t.fx.b2 = some b2) ∧
  (∀ n m : I32, pack24 n = pack24 m ↔ n.toNat % 2 ^ 24 = m.toNat % 2 ^ 24)

/-- R114, R120: `ENC24` writes to `FX.N` the integer `QUANT` gives, or any integer where it answers
`OUT` (for a scale of zero and for operands that are not finite in any case, log entry 25), and to `FX.B`
the low 24 bits of what stands in `FX.N`; it always completes. The count is the model's (log entry 3). -/
def Obligations.EncodeFieldResult : Prop :=
  ∀ (s : State) (v sc : F32), s.fault = false → s.fx.v = some v → s.fx.s = some sc →
    ∃ (n : I32) (b0 b1 b2 : Byte),
      exec .enc24 s =
        .next { s with
          fx := { s.fx with n := some n, b0 := some b0, b1 := some b1, b2 := some b2 },
          status := 0, freeCtr := s.freeCtr + 1 } ∧
      b0.toNat + 256 * b1.toNat + 65536 * b2.toNat = n.toNat % 2 ^ 24 ∧
      (f32IsFinite v = true → f32IsFinite sc = true → f32Val sc ≠ 0 →
        ∀ q, (numOf s.num).rint ((numOf s.num).div v sc) = some q → n = q)

/-- R116: `DEC24` writes the sign-extended integer to `FX.N` and its product with the scale to `FX.V`. -/
def Obligations.DecodeFieldResult : Prop :=
  ∀ (s : State) (b0 b1 b2 : Byte) (sc : F32), s.fault = false →
    s.fx.b0 = some b0 → s.fx.b1 = some b1 → s.fx.b2 = some b2 → s.fx.s = some sc →
    ∃ n : I32,
      exec .dec24 s =
        .next { s with
          fx := { s.fx with
            n := some n, v := some ((numOf s.num).mul ((numOf s.num).i2f n) sc) },
          status := 0 } ∧
      n.toInt = signed24 (b0.toNat + 256 * b1.toNat + 65536 * b2.toNat)

/-- R99, R113, R115: `QUANT` and `DEQUANT` on their own, and `ENC24` and `DEC24` as their compositions with
the integer half. That a sub-operation run on its own leaves `STATUS` alone and draws its free value from
the same count is the model's (log entries 3, 7), as is `OUT` for every operand that is not finite (log
entry 25). -/
def Obligations.FieldCodecsAreCompositions : Prop :=
  (∀ (s : State) (v sc : F32), s.fault = false → s.fx.v = some v → s.fx.s = some sc →
    ∃ n : I32,
      exec .quant s = .next { s with fx := { s.fx with n := some n }, freeCtr := s.freeCtr + 1 } ∧
      (f32IsFinite v = true → f32IsFinite sc = true → f32Val sc ≠ 0 →
        ∀ q, (numOf s.num).rint ((numOf s.num).div v sc) = some q → n = q)) ∧
  (∀ (s : State) (n : I32) (sc : F32), s.fault = false → s.fx.n = some n → s.fx.s = some sc →
    exec .dequant s =
      .next { s with fx := { s.fx with v := some ((numOf s.num).mul ((numOf s.num).i2f n) sc) } }) ∧
  (∀ s : State, s.fault = false → s.fx.v.isSome = true → s.fx.s.isSome = true →
    exec .enc24 s = andThen (exec .quant s) (exec .i24Pack)) ∧
  (∀ s : State, s.fault = false → (fxBytes s.fx).isSome = true → s.fx.s.isSome = true →
    exec .dec24 s = andThen (exec .i24Unpack s) (exec .dequant))

/-- R118: with scale 1 every integer of the int24 range survives `ENC24` and then `DEC24`, for every
numerics record with the properties of R119. -/
def Obligations.ScaleOneRoundTrip : Prop :=
  ∀ (s : State) (v : F32) (k : Int), (numOf s.num).Admissible → s.fault = false →
    s.fx.v = some v → s.fx.s = some f32One → f32IsFinite v = true → f32Val v = k →
    -2 ^ 23 ≤ k → k < 2 ^ 23 →
    ∃ t w, andThen (exec .enc24 s) (exec .dec24) = .next t ∧ t.fault = false ∧ t.status = 0 ∧
      t.fx.v = some w ∧ f32IsFinite w = true ∧ f32Val w = k

/-- R13: the products and quotients of finite operands under the reference numerics are rounded to nearest,
ties to even. An exact result of magnitude below 2^128 - 2^103, half a step past the largest finite value,
has a finite answer that no finite pattern is closer than, and on a tie its significand is even; any other
has an infinite answer (binary32 overflow, log entry 26). The sign is that of the exact rule. -/
def Obligations.ReferenceArithmeticIsNearest : Prop :=
  (∀ a b : F32, f32IsFinite a = true → f32IsFinite b = true →
    f32Neg (refMul a b) = xor (f32Neg a) (f32Neg b) ∧
    (2 ^ 128 - 2 ^ 103 ≤ |f32Val a * f32Val b| → f32IsInf (refMul a b) = true) ∧
    (|f32Val a * f32Val b| < 2 ^ 128 - 2 ^ 103 → f32IsFinite (refMul a b) = true ∧
      ∀ c : F32, f32IsFinite c = true →
        |f32Val (refMul a b) - f32Val a * f32Val b| ≤ |f32Val c - f32Val a * f32Val b| ∧
        (|f32Val (refMul a b) - f32Val a * f32Val b| = |f32Val c - f32Val a * f32Val b| →
          f32Val c ≠ f32Val (refMul a b) → f32Frac (refMul a b) % 2 = 0))) ∧
  (∀ a b : F32, f32IsFinite a = true → f32IsFinite b = true → f32Val b ≠ 0 →
    f32Neg (refDiv a b) = xor (f32Neg a) (f32Neg b) ∧
    (2 ^ 128 - 2 ^ 103 ≤ |f32Val a / f32Val b| → f32IsInf (refDiv a b) = true) ∧
    (|f32Val a / f32Val b| < 2 ^ 128 - 2 ^ 103 → f32IsFinite (refDiv a b) = true ∧
      ∀ c : F32, f32IsFinite c = true →
        |f32Val (refDiv a b) - f32Val a / f32Val b| ≤ |f32Val c - f32Val a / f32Val b| ∧
        (|f32Val (refDiv a b) - f32Val a / f32Val b| = |f32Val c - f32Val a / f32Val b| →
          f32Val c ≠ f32Val (refDiv a b) → f32Frac (refDiv a b) % 2 = 0)))

/-- R13, D8: `rint` of the reference numerics is the nearest integer, a tie going away from zero, and
answers `OUT` exactly outside the 32-bit range or for an operand that is not finite; `i2f` is exact up to
2^24. -/
def Obligations.ReferenceConversionsRound : Prop :=
  (∀ (d : F32) (n : I32), f32IsFinite d = true → refRint d = some n →
    |f32Val d - n.toInt| ≤ 1 / 2 ∧
    (|f32Val d - n.toInt| = 1 / 2 → |f32Val d| ≤ |(n.toInt : ℚ)|)) ∧
  (∀ d : F32, refRint d = none ↔
    f32IsFinite d = false ∨ f32Val d ≤ -2 ^ 31 - 1 / 2 ∨ 2 ^ 31 - 1 / 2 ≤ f32Val d) ∧
  (∀ n : I32, n.toInt.natAbs ≤ 2 ^ 24 →
    f32IsFinite (refI2f n) = true ∧ f32Val (refI2f n) = n.toInt)

/-! ### The packet envelope and the bodies -/

/-- R135: `ROUTE` on each navigation status and strap value, and the sub-operation that answers it. Where
its answer is held is the model's (log entry 7). -/
def Obligations.RouteFollowsPolicy : Prop :=
  ∀ (s : State) (nav : Byte), s.fault = false → s.pb.read 21 = some nav →
    exec .route s = .next { s with routeOut := some (
      if nav = 11 then .B
      else if nav ∈ ([0, 1, 2, 3, 4, 5, 6, 7, 10, 20, 21, 22] : List Byte) then .A
      else if s.navPolicy = 1 then .A
      else if s.navPolicy = 2 then .B
      else .reject) }

/-- R130: `CSUM` of a range of the packet buffer is the sum of its bytes mod 256. Where the answer is held
is the model's (log entry 7). -/
def Obligations.ChecksumIsByteSum : Prop :=
  ∀ (s : State) (lo hi : Nat) (bytes : List Byte), s.fault = false → lo ≤ hi → hi < 72 →
    bytes.length = hi + 1 - lo → (∀ k, k < bytes.length → s.pb.read (lo + k) = bytes[k]?) →
    ∃ c : Byte, exec (.csum lo hi) s = .next { s with csumOut := some c } ∧
      c.toNat = (bytes.map BitVec.toNat).sum % 256

/-- R130, R131: changing one byte of a range to another value always changes its checksum; each checksum
is the one before it, plus the stored byte, plus the bytes since. -/
def Obligations.ChecksumLaws : Prop :=
  (∀ (b : List Byte) (lo hi i : Nat) (x : Byte), lo ≤ i → i ≤ hi → i < b.length → b[i]? ≠ some x →
    csumOf (b.set i x) lo hi ≠ csumOf b lo hi) ∧
  (∀ b : List Byte, b.length = 72 →
    csumOf b 1 60 = csumOf b 1 21 + byteAt b 22 + csumOf b 23 60 ∧
    csumOf b 1 70 = csumOf b 1 60 + byteAt b 61 + csumOf b 62 70)
/-- R132, R150 with the layout of R71: `PKT.ENC` of a structure-A record writes all 72 bytes, field by
field, and nothing else but `STATUS` (and the count of free values, the model's, log entry 3). -/
def Obligations.EncodeStructureALayout : Prop :=
  ∀ (s : State) (a : StructureA), s.fault = false → s.pk.kind = some .A →
    structureAOperand s.pk s.sc = some a →
    ∃ (m : Memory) (b : List Byte),
      exec .pktEnc s = .next { s with pb := m, status := 0, freeCtr := s.freeCtr + 12 } ∧
      b.length = 72 ∧ StoredAt m s.pb 0 b ∧
      byteAt b 0 = 0xE7 ∧ memRead b 1 2 = a.time.toNat % 60000 ∧
      Int24At (numOf s.num) b 3 a.accelerationX 0x38D1B717 ∧
      Int24At (numOf s.num) b 6 a.accelerationY 0x38D1B717 ∧
      Int24At (numOf s.num) b 9 a.accelerationZ 0x38D1B717 ∧
      Int24At (numOf s.num) b 12 a.angularRateX 0x3727C5AC ∧
      Int24At (numOf s.num) b 15 a.angularRateY 0x3727C5AC ∧
      Int24At (numOf s.num) b 18 a.angularRateZ 0x3727C5AC ∧
      byteAt b 21 = a.navigationStatus ∧ byteAt b 22 = csumOf b 1 21 ∧
      memRead b 23 8 = a.latitude.toNat ∧ memRead b 31 8 = a.longitude.toNat ∧
      memRead b 39 4 = a.altitude.toNat ∧
      Int24At (numOf s.num) b 43 a.velocityNorth 0x38D1B717 ∧
      Int24At (numOf s.num) b 46 a.velocityEast 0x38D1B717 ∧
      Int24At (numOf s.num) b 49 a.velocityDown 0x38D1B717 ∧
      Int24At (numOf s.num) b 52 a.heading 0x358637BD ∧
      Int24At (numOf s.num) b 55 a.pitch 0x358637BD ∧
      Int24At (numOf s.num) b 58 a.roll 0x358637BD ∧
      byteAt b 61 = csumOf b 1 60 ∧ byteAt b 62 = tagByteOf a.statusChannel ∧
      slice b 63 8 = channelPayload a.statusChannel ∧ byteAt b 71 = csumOf b 1 70

/-- R132, R153 with the layout of R72: `PKT.ENC` of a structure-B record writes the sync byte, zeros, the
navigation status at 21 and at 71, whatever the record's status says. -/
def Obligations.EncodeStructureBLayout : Prop :=
  ∀ (s : State) (nav : Byte), s.fault = false → s.pk.kind = some .B →
    s.pk.navigationStatus = some nav →
    ∃ m : Memory, exec .pktEnc s = .next { s with pb := m, status := 0 } ∧
      StoredAt m s.pb 0
        ([0xE7] ++ List.replicate 20 0 ++ [nav] ++ List.replicate 49 0 ++ [nav])

/-- R150, R153: the body encoders run on their own write offsets 1 to 70 as `PKT.ENC` does, and no other
byte. That they leave `STATUS` alone is the model's (log entry 7). -/
def Obligations.BodyEncodersWriteTheBody : Prop :=
  (∀ (s : State) (a : StructureA), s.fault = false → structureAOperand s.pk s.sc = some a →
    ∃ (m : Memory) (body : List Byte),
      exec .aEnc s = .next { s with pb := m, freeCtr := s.freeCtr + 12 } ∧
      StoredAt m s.pb 1 body ∧ body.length = 70 ∧
      ∀ t, exec .pktEnc { s with pk := { s.pk with kind := some .A } } = .next t →
        ∀ k, 1 ≤ k → k ≤ 70 → t.pb.read k = m.read k) ∧
  (∀ (s : State) (nav : Byte), s.fault = false → s.pk.navigationStatus = some nav →
    ∃ m : Memory, exec .bEnc s = .next { s with pb := m } ∧
      StoredAt m s.pb 1 (List.replicate 20 0 ++ [nav] ++ List.replicate 49 0))

/-- R276, R34: an encode ignores the checksum flags, so packets that are semantically equal encode to the
same bytes. -/
def Obligations.EncodeIgnoresChecksumFlags : Prop :=
  ∀ (num : NumRec) (free : Nat → I32) (p q : Packet), p.semEq q = true →
    pktEncode num free p = pktEncode num free q

/-- R232, R233, R234, R238: the three errors of `PKT.DEC` in their order, each leaving its code, no record,
and everything else as it was. -/
def Obligations.DecodeErrorsInOrder : Prop :=
  ∀ s : State, s.fault = false →
    (∀ len, s.pbLen = some len → len < 72 →
      exec .pktDec s = .next { s with status := 1, pk := {}, sc := {} }) ∧
    (∀ len b, s.pbLen = some len → 72 ≤ len → pbOperand s = some b →
      (byteAt b 0 ≠ 0xE7 → exec .pktDec s = .next { s with status := 2, pk := {}, sc := {} }) ∧
      (byteAt b 0 = 0xE7 → byteAt b 21 ≠ 11 →
        byteAt b 21 ∉ ([0, 1, 2, 3, 4, 5, 6, 7, 10, 20, 21, 22] : List Byte) →
        s.navPolicy ≠ 1 → s.navPolicy ≠ 2 →
        exec .pktDec s = .next { s with status := 3, pk := {}, sc := {} }))

/-- R134, R152 with the layout of R71: `PKT.DEC` of a packet that routes to structure-A delivers every
field from its offsets and the three flags, and completes whatever the flags are (R136). That for an
unknown tag `SC.tag` then holds no value either is the model's reading (log entry 15). -/
def Obligations.DecodeStructureAFields : Prop :=
  ∀ (s : State) (len : Nat) (b : List Byte), s.fault = false → s.pbLen = some len → 72 ≤ len →
    pbOperand s = some b → byteAt b 0 = 0xE7 →
    (byteAt b 21 ∈ ([0, 1, 2, 3, 4, 5, 6, 7, 10, 20, 21, 22] : List Byte) ∨
      (byteAt b 21 ≠ 11 ∧ s.navPolicy = 1)) →
    exec .pktDec s = .next { s with
      status := 0,
      pk := {
        kind := some .A, navigationStatus := some (byteAt b 21),
        time := some (BitVec.ofNat 16 (memRead b 1 2)),
        accelerationX := some (int24Value (numOf s.num) b 3 0x38D1B717),
        accelerationY := some (int24Value (numOf s.num) b 6 0x38D1B717),
        accelerationZ := some (int24Value (numOf s.num) b 9 0x38D1B717),
        angularRateX := some (int24Value (numOf s.num) b 12 0x3727C5AC),
        angularRateY := some (int24Value (numOf s.num) b 15 0x3727C5AC),
        angularRateZ := some (int24Value (numOf s.num) b 18 0x3727C5AC),
        checksum1Valid := some (decide (csumOf b 1 21 = byteAt b 22)),
        latitude := some (BitVec.ofNat 64 (memRead b 23 8)),
        longitude := some (BitVec.ofNat 64 (memRead b 31 8)),
        altitude := some (BitVec.ofNat 32 (memRead b 39 4)),
        velocityNorth := some (int24Value (numOf s.num) b 43 0x38D1B717),
        velocityEast := some (int24Value (numOf s.num) b 46 0x38D1B717),
        velocityDown := some (int24Value (numOf s.num) b 49 0x38D1B717),
        heading := some (int24Value (numOf s.num) b 52 0x358637BD),
        pitch := some (int24Value (numOf s.num) b 55 0x358637BD),
        roll := some (int24Value (numOf s.num) b 58 0x358637BD),
        checksum2Valid := some (decide (csumOf b 1 60 = byteAt b 61)),
        checksum3Valid := some (decide (csumOf b 1 70 = byteAt b 71)) },
      sc := scOfChannel (channelOf (byteAt b 62) (slice b 63 8)) }

/-- R134, R154: `PKT.DEC` of a packet that routes to structure-B delivers its two fields; no other `PK.*`
field and no `SC.*` field holds a value. -/
def Obligations.DecodeStructureBFields : Prop :=
  ∀ (s : State) (len : Nat) (b : List Byte), s.fault = false → s.pbLen = some len → 72 ≤ len →
    pbOperand s = some b → byteAt b 0 = 0xE7 →
    (byteAt b 21 = 11 ∨
      (byteAt b 21 ∉ ([0, 1, 2, 3, 4, 5, 6, 7, 10, 20, 21, 22] : List Byte) ∧ s.navPolicy = 2)) →
    exec .pktDec s = .next { s with
      status := 0,
      pk := {
        kind := some .B, navigationStatus := some (byteAt b 21),
        checksum3Valid := some (decide (csumOf b 1 70 = byteAt b 71)) },
      sc := {} }

/-- R99, R100: `PKT.DEC` of a framed packet is the byte-21 row run on the state whose envelope fields are
written, with `STATUS` at the end; so the rows are what the command does. The rows leave the envelope
fields alone, the out-of-set row does what `NAV_POLICY` says (R135). -/
def Obligations.DecodeRunsTheRoutedRow : Prop :=
  ∀ (s : State) (len : Nat) (b : List Byte) (i : Instr), s.fault = false → s.pbLen = some len →
    72 ≤ len → pbOperand s = some b → byteAt b 0 = 0xE7 → decode (.nav (byteAt b 21)) = .ok i →
    let r := routeOf s.navPolicy (byteAt b 21)
    r ≠ .reject →
    exec .pktDec s =
      andThen
        (exec i { s with
          pk := {
            kind := some (if r = .A then .A else .B), navigationStatus := some (byteAt b 21),
            checksum3Valid := some (decide (csumOf b 1 70 = byteAt b 71)) },
          sc := {} })
        (fun t => .next { t with status := 0 })

/-- R152, R154, R135: the byte-21 rows on their own. `A.DEC` writes every structure-A field but the
kind and the envelope's two, from offsets 1 to 70 of the packet buffer, whatever offsets 0 and 71 hold;
`B.DEC` does nothing; the out-of-set row is one of the two, or `ERR_NAV`, by `NAV_POLICY`. That they leave
`STATUS` alone is the model's (log entry 7), and that for an unknown tag `SC.tag` then holds no value
either is its reading (log entry 15). -/
def Obligations.RoutedRowsOnTheirOwn : Prop :=
  ∀ (s : State) (nav : Byte), s.fault = false →
    exec .bDec s = .next s ∧
    (s.navPolicy = 2 → exec (.routeOutOfSet nav) s = .next s) ∧
    (s.navPolicy ≠ 1 → s.navPolicy ≠ 2 →
      exec (.routeOutOfSet nav) s = .next { s with status := 3, pk := {}, sc := {} }) ∧
    (∀ b : List Byte, b.length = 72 → (∀ k, 1 ≤ k → k ≤ 70 → s.pb.read k = b[k]?) →
      exec (.aDec nav) s = .next { s with
        pk := {
          kind := s.pk.kind, navigationStatus := s.pk.navigationStatus,
          checksum3Valid := s.pk.checksum3Valid,
          time := some (BitVec.ofNat 16 (memRead b 1 2)),
          accelerationX := some (int24Value (numOf s.num) b 3 0x38D1B717),
          accelerationY := some (int24Value (numOf s.num) b 6 0x38D1B717),
          accelerationZ := some (int24Value (numOf s.num) b 9 0x38D1B717),
          angularRateX := some (int24Value (numOf s.num) b 12 0x3727C5AC),
          angularRateY := some (int24Value (numOf s.num) b 15 0x3727C5AC),
          angularRateZ := some (int24Value (numOf s.num) b 18 0x3727C5AC),
          checksum1Valid := some (decide (csumOf b 1 21 = byteAt b 22)),
          latitude := some (BitVec.ofNat 64 (memRead b 23 8)),
          longitude := some (BitVec.ofNat 64 (memRead b 31 8)),
          altitude := some (BitVec.ofNat 32 (memRead b 39 4)),
          velocityNorth := some (int24Value (numOf s.num) b 43 0x38D1B717),
          velocityEast := some (int24Value (numOf s.num) b 46 0x38D1B717),
          velocityDown := some (int24Value (numOf s.num) b 49 0x38D1B717),
          heading := some (int24Value (numOf s.num) b 52 0x358637BD),
          pitch := some (int24Value (numOf s.num) b 55 0x358637BD),
          roll := some (int24Value (numOf s.num) b 58 0x358637BD),
          checksum2Valid := some (decide (csumOf b 1 60 = byteAt b 61)) },
        sc := scOfChannel (channelOf (byteAt b 62) (slice b 63 8)) } ∧
      (s.navPolicy = 1 → exec (.routeOutOfSet nav) s = exec (.aDec nav) s))
/-- R137: a structure-A record with an allowed navigation status, encoded and decoded again: the same
navigation status, `time mod 60000`, the same bit patterns, every int24 field the dequantised low 24 bits
of its quantised value, the same status channel, all three flags true. (That with no status channel
`SC.tag` then holds no value is the model's reading, log entry 15.) -/
def Obligations.PacketRoundTrip : Prop :=
  ∀ (s : State) (a : StructureA) (len : Nat), s.fault = false → s.pk.kind = some .A →
    structureAOperand s.pk s.sc = some a → 72 ≤ len →
    a.navigationStatus ∈ ([0, 1, 2, 3, 4, 5, 6, 7, 10, 20, 21, 22] : List Byte) →
    ∃ t, andThen (exec .pktEnc s) (fun u => exec .pktDec { u with pbLen := some len }) = .next t ∧
      t.fault = false ∧ t.status = 0 ∧ t.pk.kind = some .A ∧
      t.pk.navigationStatus = some a.navigationStatus ∧
      t.pk.time = some (BitVec.ofNat 16 (a.time.toNat % 60000)) ∧
      t.pk.latitude = some a.latitude ∧ t.pk.longitude = some a.longitude ∧
      t.pk.altitude = some a.altitude ∧
      (∀ q, quantOf (numOf s.num) a.accelerationX 0x38D1B717 = some q →
        t.pk.accelerationX = some (dequantOf (numOf s.num)
          (BitVec.ofInt 32 (signed24 (q.toNat % 2 ^ 24))) 0x38D1B717)) ∧
      (∀ q, quantOf (numOf s.num) a.accelerationY 0x38D1B717 = some q →
        t.pk.accelerationY = some (dequantOf (numOf s.num)
          (BitVec.ofInt 32 (signed24 (q.toNat % 2 ^ 24))) 0x38D1B717)) ∧
      (∀ q, quantOf (numOf s.num) a.accelerationZ 0x38D1B717 = some q →
        t.pk.accelerationZ = some (dequantOf (numOf s.num)
          (BitVec.ofInt 32 (signed24 (q.toNat % 2 ^ 24))) 0x38D1B717)) ∧
      (∀ q, quantOf (numOf s.num) a.angularRateX 0x3727C5AC = some q →
        t.pk.angularRateX = some (dequantOf (numOf s.num)
          (BitVec.ofInt 32 (signed24 (q.toNat % 2 ^ 24))) 0x3727C5AC)) ∧
      (∀ q, quantOf (numOf s.num) a.angularRateY 0x3727C5AC = some q →
        t.pk.angularRateY = some (dequantOf (numOf s.num)
          (BitVec.ofInt 32 (signed24 (q.toNat % 2 ^ 24))) 0x3727C5AC)) ∧
      (∀ q, quantOf (numOf s.num) a.angularRateZ 0x3727C5AC = some q →
        t.pk.angularRateZ = some (dequantOf (numOf s.num)
          (BitVec.ofInt 32 (signed24 (q.toNat % 2 ^ 24))) 0x3727C5AC)) ∧
      (∀ q, quantOf (numOf s.num) a.velocityNorth 0x38D1B717 = some q →
        t.pk.velocityNorth = some (dequantOf (numOf s.num)
          (BitVec.ofInt 32 (signed24 (q.toNat % 2 ^ 24))) 0x38D1B717)) ∧
      (∀ q, quantOf (numOf s.num) a.velocityEast 0x38D1B717 = some q →
        t.pk.velocityEast = some (dequantOf (numOf s.num)
          (BitVec.ofInt 32 (signed24 (q.toNat % 2 ^ 24))) 0x38D1B717)) ∧
      (∀ q, quantOf (numOf s.num) a.velocityDown 0x38D1B717 = some q →
        t.pk.velocityDown = some (dequantOf (numOf s.num)
          (BitVec.ofInt 32 (signed24 (q.toNat % 2 ^ 24))) 0x38D1B717)) ∧
      (∀ q, quantOf (numOf s.num) a.heading 0x358637BD = some q →
        t.pk.heading = some (dequantOf (numOf s.num)
          (BitVec.ofInt 32 (signed24 (q.toNat % 2 ^ 24))) 0x358637BD)) ∧
      (∀ q, quantOf (numOf s.num) a.pitch 0x358637BD = some q →
        t.pk.pitch = some (dequantOf (numOf s.num)
          (BitVec.ofInt 32 (signed24 (q.toNat % 2 ^ 24))) 0x358637BD)) ∧
      (∀ q, quantOf (numOf s.num) a.roll 0x358637BD = some q →
        t.pk.roll = some (dequantOf (numOf s.num)
          (BitVec.ofInt 32 (signed24 (q.toNat % 2 ^ 24))) 0x358637BD)) ∧
      t.sc = scOfChannel a.statusChannel ∧
      t.pk.checksum1Valid = some true ∧ t.pk.checksum2Valid = some true ∧
      t.pk.checksum3Valid = some true

/-- R157: in a structure-A packet whose three flags decode true, changing one byte makes false exactly
the flags whose range or stored byte it touches, and leaves every field whose own offsets do not hold the
byte. At offset 21 the new value is one that routes to structure-A; the other values, for which R157 and
conflict C6 make their caveat, are `RouteFollowsPolicy`'s and the decodes'. -/
def Obligations.ChecksumSensitivity : Prop :=
  ∀ (s t : State) (len i : Nat) (old x : Byte), s.fault = false → s.pbLen = some len → 72 ≤ len →
    exec .pktDec s = .next t → t.fault = false → t.pk.kind = some .A →
    t.pk.checksum1Valid = some true → t.pk.checksum2Valid = some true → t.pk.checksum3Valid = some true →
    1 ≤ i → i ≤ 71 → s.pb.read i = some old → x ≠ old →
    (i = 21 → x ∈ ([0, 1, 2, 3, 4, 5, 6, 7, 10, 20, 21, 22] : List Byte)) →
    ∃ u, exec .pktDec { s with pb := s.pb.write i x } = .next u ∧ u.fault = false ∧ u.status = 0 ∧
      u.pk.kind = some .A ∧
      u.pk.checksum1Valid = some (decide (22 < i)) ∧
      u.pk.checksum2Valid = some (decide (61 < i)) ∧
      u.pk.checksum3Valid = some false ∧
      u.pk.navigationStatus = (if i = 21 then some x else t.pk.navigationStatus) ∧
      (2 < i → u.pk.time = t.pk.time) ∧
      (i < 3 ∨ 5 < i → u.pk.accelerationX = t.pk.accelerationX) ∧
      (i < 6 ∨ 8 < i → u.pk.accelerationY = t.pk.accelerationY) ∧
      (i < 9 ∨ 11 < i → u.pk.accelerationZ = t.pk.accelerationZ) ∧
      (i < 12 ∨ 14 < i → u.pk.angularRateX = t.pk.angularRateX) ∧
      (i < 15 ∨ 17 < i → u.pk.angularRateY = t.pk.angularRateY) ∧
      (i < 18 ∨ 20 < i → u.pk.angularRateZ = t.pk.angularRateZ) ∧
      (i < 23 ∨ 30 < i → u.pk.latitude = t.pk.latitude) ∧
      (i < 31 ∨ 38 < i → u.pk.longitude = t.pk.longitude) ∧
      (i < 39 ∨ 42 < i → u.pk.altitude = t.pk.altitude) ∧
      (i < 43 ∨ 45 < i → u.pk.velocityNorth = t.pk.velocityNorth) ∧
      (i < 46 ∨ 48 < i → u.pk.velocityEast = t.pk.velocityEast) ∧
      (i < 49 ∨ 51 < i → u.pk.velocityDown = t.pk.velocityDown) ∧
      (i < 52 ∨ 54 < i → u.pk.heading = t.pk.heading) ∧
      (i < 55 ∨ 57 < i → u.pk.pitch = t.pk.pitch) ∧
      (i < 58 ∨ 60 < i → u.pk.roll = t.pk.roll) ∧
      (i < 62 ∨ 70 < i → u.sc = t.sc)

/-- R134 corner case (3), with R119 P3: a packet of zeros behind the sync byte decodes to structure-A with
every field zero, the tag-0 status channel of zeros, and all three flags true, for every numerics record
with the properties of R119. -/
def Obligations.ZeroedPacketDecodesToZero : Prop :=
  ∀ (s : State) (len : Nat), (numOf s.num).Admissible → s.fault = false → s.pbLen = some len →
    72 ≤ len → s.pb.read 0 = some 0xE7 → (∀ a, 1 ≤ a → a < 72 → s.pb.read a = some 0) →
    exec .pktDec s = .next { s with
      status := 0,
      pk := {
        kind := some .A, navigationStatus := some 0, time := some 0,
        accelerationX := some 0, accelerationY := some 0, accelerationZ := some 0,
        angularRateX := some 0, angularRateY := some 0, angularRateZ := some 0,
        checksum1Valid := some true, latitude := some 0, longitude := some 0, altitude := some 0,
        velocityNorth := some 0, velocityEast := some 0, velocityDown := some 0,
        heading := some 0, pitch := some 0, roll := some 0,
        checksum2Valid := some true, checksum3Valid := some true },
      sc := {
        present := some true, tag := some 0, fullTime := some 0, numSatellites := some 0,
        positionMode := some 0, velocityMode := some 0, orientationMode := some 0 } }

/-! ### The status channel -/

/-- R170, R171: `SC.LOOKUP` of every tag byte; no other register changes (for an unknown tag that `SC.tag`
keeps its content is the model's reading, log entry 14). -/
def Obligations.LookupFindsRegisteredTags : Prop :=
  ∀ (s : State) (tag : Byte), s.fault = false → s.scTagByte = some tag →
    exec .scLookup s = .next { s with
      status := 0,
      sc := if tag.toNat ≤ 9 then { s.sc with present := some true, tag := some (tag.setWidth 4) }
        else { s.sc with present := some false } }

/-- R175, R177, R179 with the layouts of R78 to R80 and R88: the decode rows of tags 0, 1 and 2; no field
of another variant holds a value (R35), and the lookup's two registers stay. -/
def Obligations.DecodeRowsOfTagsZeroToTwo : Prop :=
  ∀ (s : State) (p0 p1 p2 p3 p4 p5 p6 p7 : Byte), s.fault = false →
    spOperand s = some [p0, p1, p2, p3, p4, p5, p6, p7] →
    let chan (p : Byte) : Option Innov :=
      some { mag := BitVec.ofNat 7 (p.toNat / 2), valid := decide (p.toNat % 2 = 1) }
    exec .sc0Dec s = .next { s with sc := {
      present := s.sc.present, tag := s.sc.tag, fullTime := some (p3 ++ p2 ++ p1 ++ p0),
      numSatellites := some p4, positionMode := some p5, velocityMode := some p6,
      orientationMode := some p7 } } ∧
    exec .sc1Dec s = .next { s with sc := {
      present := s.sc.present, tag := s.sc.tag, innovPosX := chan p0, innovPosY := chan p1,
      innovPosZ := chan p2, innovVelX := chan p3, innovVelY := chan p4, innovVelZ := chan p5,
      innovPitch := chan p6, innovHeading := chan p7 } } ∧
    exec .sc2Dec s = .next { s with sc := {
      present := s.sc.present, tag := s.sc.tag, charsReceived := some (p1 ++ p0),
      packetsReceived := some (p3 ++ p2), charsNotUnderstood := some (p5 ++ p4),
      packetsNotUsed := some (p7 ++ p6) } }

/-- R181, R183, R185 with the layouts of R81 to R83: the decode rows of tags 3, 4 and 5, with the derived
flags `age < 150` and `deviceStatus ≠ 0xFF`. -/
def Obligations.DecodeRowsOfTagsThreeToFive : Prop :=
  ∀ (s : State) (p0 p1 p2 p3 p4 p5 p6 p7 : Byte), s.fault = false →
    spOperand s = some [p0, p1, p2, p3, p4, p5, p6, p7] →
    exec .sc3Dec s = .next { s with sc := {
      present := s.sc.present, tag := s.sc.tag, accNorth := some (p1 ++ p0),
      accEast := some (p3 ++ p2), accDown := some (p5 ++ p4), age := some p6,
      deviceStatus := some p7, accValid := some (decide (p6.toNat < 150)),
      deviceStatusValid := some (decide (p7.toNat ≠ 255)) } } ∧
    exec .sc4Dec s = .next { s with sc := {
      present := s.sc.present, tag := s.sc.tag, velAcc0 := some (p1 ++ p0),
      velAcc1 := some (p3 ++ p2), velAcc2 := some (p5 ++ p4), age := some p6,
      processingMethod := some p7, accValid := some (decide (p6.toNat < 150)) } } ∧
    exec .sc5Dec s = .next { s with sc := {
      present := s.sc.present, tag := s.sc.tag, accHeading := some (p1 ++ p0),
      accPitch := some (p3 ++ p2), accRoll := some (p5 ++ p4), age := some p6,
      reserved := some p7, accValid := some (decide (p6.toNat < 150)) } }

/-- R187, R189, R191, R193 with the layouts of R84 to R87 and R89: the decode rows of tags 6 to 9; no flag
is derived. -/
def Obligations.DecodeRowsOfTagsSixToNine : Prop :=
  ∀ (s : State) (p0 p1 p2 p3 p4 p5 p6 p7 : Byte) (i : Instr), s.fault = false →
    spOperand s = some [p0, p1, p2, p3, p4, p5, p6, p7] →
    i ∈ [Instr.sc6Dec, .sc7Dec, .sc8Dec, .sc9Dec] →
    exec i s = .next { s with sc := {
      present := s.sc.present, tag := s.sc.tag, val0 := some (p1 ++ p0), val1 := some (p3 ++ p2),
      val2 := some (p5 ++ p4), age := some p6, countL1 := some (BitVec.ofNat 4 (p7.toNat % 16)),
      countL2 := some (BitVec.ofNat 4 (p7.toNat / 16)) } }

/-- R174, R176, R178 with the layouts of R78 to R80 and R88: the encode rows of tags 0, 1 and 2 write the
eight payload bytes and nothing else. -/
def Obligations.EncodeRowsOfTagsZeroToTwo : Prop :=
  ∀ s : State, s.fault = false →
    (∀ ft ns pm vm om, s.sc.fullTime = some ft → s.sc.numSatellites = some ns →
      s.sc.positionMode = some pm → s.sc.velocityMode = some vm → s.sc.orientationMode = some om →
      ∃ m, exec .sc0Enc s = .next { s with sp := m } ∧
        StoredAt m s.sp 0
          [ft.extractLsb' 0 8, ft.extractLsb' 8 8, ft.extractLsb' 16 8, ft.extractLsb' 24 8,
            ns, pm, vm, om]) ∧
    (∀ c0 c1 c2 c3 c4 c5 c6 c7, s.sc.innovPosX = some c0 → s.sc.innovPosY = some c1 →
      s.sc.innovPosZ = some c2 → s.sc.innovVelX = some c3 → s.sc.innovVelY = some c4 →
      s.sc.innovVelZ = some c5 → s.sc.innovPitch = some c6 → s.sc.innovHeading = some c7 →
      ∃ m, exec .sc1Enc s = .next { s with sp := m } ∧
        StoredAt m s.sp 0
          ([c0, c1, c2, c3, c4, c5, c6, c7].map fun c : Innov =>
            BitVec.ofNat 8 (2 * c.mag.toNat + c.valid.toNat))) ∧
    (∀ cr pr cn pn, s.sc.charsReceived = some cr → s.sc.packetsReceived = some pr →
      s.sc.charsNotUnderstood = some cn → s.sc.packetsNotUsed = some pn →
      ∃ m, exec .sc2Enc s = .next { s with sp := m } ∧
        StoredAt m s.sp 0
          [cr.extractLsb' 0 8, cr.extractLsb' 8 8, pr.extractLsb' 0 8, pr.extractLsb' 8 8,
            cn.extractLsb' 0 8, cn.extractLsb' 8 8, pn.extractLsb' 0 8, pn.extractLsb' 8 8])

/-- R180, R182, R184 with the layouts of R81 to R83: the encode rows of tags 3, 4 and 5, which consult no
flag. -/
def Obligations.EncodeRowsOfTagsThreeToFive : Prop :=
  ∀ (s : State) (x y z : U16) (age last : Byte), s.fault = false → s.sc.age = some age →
    let bytes : List Byte :=
      [x.extractLsb' 0 8, x.extractLsb' 8 8, y.extractLsb' 0 8, y.extractLsb' 8 8,
        z.extractLsb' 0 8, z.extractLsb' 8 8, age, last]
    (s.sc.accNorth = some x → s.sc.accEast = some y → s.sc.accDown = some z →
      s.sc.deviceStatus = some last →
      ∃ m, exec .sc3Enc s = .next { s with sp := m } ∧ StoredAt m s.sp 0 bytes) ∧
    (s.sc.velAcc0 = some x → s.sc.velAcc1 = some y → s.sc.velAcc2 = some z →
      s.sc.processingMethod = some last →
      ∃ m, exec .sc4Enc s = .next { s with sp := m } ∧ StoredAt m s.sp 0 bytes) ∧
    (s.sc.accHeading = some x → s.sc.accPitch = some y → s.sc.accRoll = some z →
      s.sc.reserved = some last →
      ∃ m, exec .sc5Enc s = .next { s with sp := m } ∧ StoredAt m s.sp 0 bytes)

/-- R186, R188, R190, R192 with the layouts of R84 to R87 and R89: the encode rows of tags 6 to 9. -/
def Obligations.EncodeRowsOfTagsSixToNine : Prop :=
  ∀ (s : State) (x y z : I16) (age : Byte) (l1 l2 : BitVec 4) (i : Instr), s.fault = false →
    s.sc.val0 = some x → s.sc.val1 = some y → s.sc.val2 = some z → s.sc.age = some age →
    s.sc.countL1 = some l1 → s.sc.countL2 = some l2 →
    i ∈ [Instr.sc6Enc, .sc7Enc, .sc8Enc, .sc9Enc] →
    ∃ m, exec i s = .next { s with sp := m } ∧
      StoredAt m s.sp 0
        [x.extractLsb' 0 8, x.extractLsb' 8 8, y.extractLsb' 0 8, y.extractLsb' 8 8,
          z.extractLsb' 0 8, z.extractLsb' 8 8, age, BitVec.ofNat 8 (16 * l2.toNat + l1.toNat)]

/-- R172, R194, R99: `SC.ENC` writes `SC.TAGBYTE` and all eight bytes of `SP`: 0xFF and zeros for no
status channel, else the variant's tag and payload, as the row of that tag writes it. -/
def Obligations.EncodeChannelResult : Prop :=
  ∀ s : State, s.fault = false →
    (s.sc.present = some false →
      ∃ m, exec .scEnc s = .next { s with sp := m, scTagByte := some 0xFF, status := 0 } ∧
        StoredAt m s.sp 0 [0, 0, 0, 0, 0, 0, 0, 0]) ∧
    (∀ t v, s.sc.present = some true → s.sc.tag = some t → variantOperand s.sc t = some v →
      ∃ m i, exec .scEnc s = .next { s with sp := m, scTagByte := some (t.setWidth 8), status := 0 } ∧
        (payloadOf v).length = 8 ∧ StoredAt m s.sp 0 (payloadOf v) ∧
        decode (.tagEnc (t.setWidth 8)) = .ok i ∧ exec i s = .next { s with sp := m })
/-- R172, R237 (c): `SC.ENC`, and `PKT.ENC` of a structure-A record, with `SC.present = 1` and `SC.tag` in
10..15 is a `PreconditionViolation`. -/
def Obligations.TagWithoutVariantViolates : Prop :=
  ∀ (s : State) (t : BitVec 4), s.fault = false → s.sc.present = some true → s.sc.tag = some t →
    10 ≤ t.toNat →
    exec .scEnc s = .next s.violated ∧
    (s.pk.kind = some .A → exec .pktEnc s = .next s.violated)

/-- R173, R195, R235: `SC.DEC` of a registered tag is the lookup and then the tag's row, and of any other
tag leaves `None`: `SC.present = 0`, no field with a value, `STATUS = OK`, the payload not read. (That
`SC.tag` then holds no value either is the model's reading, log entry 15.) -/
def Obligations.DecodeChannelResult : Prop :=
  ∀ (s : State) (tag : Byte), s.fault = false → s.scTagByte = some tag →
    (10 ≤ tag.toNat →
      exec .scDec s = .next { s with sc := { present := some false }, status := 0 }) ∧
    (∀ p i, tag.toNat ≤ 9 → spOperand s = some p → decode (.tagDec tag) = .ok i →
      exec .scDec s = andThen (exec .scLookup s) (exec i) ∧
      exec .scDec s =
        .next { s with sc := scOfChannel (channelOf tag p), status := 0 } ∧
      (channelOf tag p).isSome = true)

/-- R194, R195: the two rows of no status channel, on their own. -/
def Obligations.NoChannelRows : Prop :=
  ∀ (s : State) (tag : Byte), s.fault = false →
    exec (.scNoneDec tag) s = .next { s with sc := { present := some false } } ∧
    ∃ m, exec .scNoneEnc s = .next { s with sp := m, scTagByte := some 0xFF } ∧
      StoredAt m s.sp 0 [0, 0, 0, 0, 0, 0, 0, 0]

/-- R197: a variant survives encode and decode, and the eight bytes of a registered tag survive decode and
encode; "no status channel" survives too; an unknown tag and its payload do not: they decode to it. -/
def Obligations.PayloadRoundTrip : Prop :=
  (∀ c : Option Variant, channelOf (tagByteOf c) (channelPayload c) = c) ∧
  (∀ (tag : Byte) (p : List Byte), tag.toNat ≤ 9 → p.length = 8 →
    ∃ v, channelOf tag p = some v ∧ tagByteOf (some v) = tag ∧ channelPayload (some v) = p) ∧
  (∀ (tag : Byte) (p : List Byte), 10 ≤ tag.toNat →
    channelOf tag p = none ∧ tagByteOf (channelOf tag p) = 0xFF ∧
      channelPayload (channelOf tag p) = [0, 0, 0, 0, 0, 0, 0, 0])

/-! ### The scanner -/

/-- R210, R237 (b): `SCAN.INIT` starts at position 0 with an empty queue, or is a `PreconditionViolation`
for a stream longer than `SB_MAX`, as is `SCAN`. -/
def Obligations.ScanInitResult : Prop :=
  ∀ (s : State) (len : Nat), s.fault = false → s.sbLen = some len →
    (∀ max, s.sbMax = some max → max < len →
      exec .scanInit s = .next s.violated ∧ exec .scan s = .next s.violated) ∧
    ((∀ max, s.sbMax = some max → len ≤ max) →
      exec .scanInit s = .next { s with scanPos := 0, outq := [] })

/-- R213: the five outcomes of `SCAN.STEP`, each with its position and queue; `STATUS` is not changed. Where
the outcome is held is the model's (log entry 7). -/
def Obligations.ScanStepOutcomes : Prop :=
  ∀ (s : State) (sb : List Byte), s.fault = false → sbOperand s = some sb →
    let found := accepts (numOf s.num) s.navPolicy s.chkRejectMask (slice sb s.scanPos 72)
    exec .scanStep s =
      .next (
        if sb.length ≤ s.scanPos then { s with scanOut := some .stopEnd }
        else if byteAt sb s.scanPos ≠ 0xE7 then
          { s with scanPos := s.scanPos + 1, scanOut := some .skip }
        else if sb.length - s.scanPos < 72 then { s with scanOut := some .stopShort }
        else match found with
          | some pkt =>
            { s with outq := s.outq ++ [pkt], scanPos := s.scanPos + 72, scanOut := some .accept }
          | none => { s with scanPos := s.scanPos + 1, scanOut := some .reject })

/-- R70, R211: the sync test at its two places: the envelope's byte 0 (`ERR_SYNC` for any other byte, R233)
and the scanner's position (a `SKIP` for any other byte, R213). Where its answer is held is the model's
(log entry 7). -/
def Obligations.SyncTestResult : Prop :=
  (∀ (s : State) (b : Byte), s.fault = false → s.pb.read 0 = some b →
    exec (.sync .envelope) s = .next (
      if b = 0xE7 then { s with syncOut := some true }
      else { s with syncOut := some false, status := 2, pk := {}, sc := {} })) ∧
  (∀ (s : State) (sb : List Byte), s.fault = false → sbOperand s = some sb →
    exec (.sync .candidate) s = .next (
      if sb.length ≤ s.scanPos then { s with syncOut := some false }
      else if byteAt sb s.scanPos = 0xE7 then { s with syncOut := some true }
      else { s with
        syncOut := some false, scanPos := s.scanPos + 1, scanOut := some .skip }))

/-- R212: the acceptance test: a complete candidate is accepted exactly when it decodes and no checksum
flag that the mask names is false; with mask 0 decoding is enough; a window that starts with the sync byte
decodes, under `REJECT`, exactly when its byte 21 is one of the 13 values, and always under the others. -/
def Obligations.AcceptanceTest : Prop :=
  ∀ (num : NumRec) (policy : BitVec 2) (mask : BitVec 3) (w : List Byte),
    (∀ a, accepts num policy mask w = some (.structureA a) ↔
      pktDecode num policy 72 w = .ok (.structureA a) ∧
        (mask.getLsbD 2 = false ∨ a.checksum3Valid = true) ∧
        (mask.getLsbD 0 = false ∨ a.checksum1Valid = true) ∧
        (mask.getLsbD 1 = false ∨ a.checksum2Valid = true)) ∧
    (∀ b, accepts num policy mask w = some (.structureB b) ↔
      pktDecode num policy 72 w = .ok (.structureB b) ∧
        (mask.getLsbD 2 = false ∨ b.checksum3Valid = true)) ∧
    (∀ pkt, pktDecode num policy 72 w = .ok pkt → accepts num policy 0 w = some pkt) ∧
    (byteAt w 0 = 0xE7 → policy ≠ 1 → policy ≠ 2 → ((accepts num policy 0 w).isSome = true ↔
      byteAt w 21 ∈ ([0, 1, 2, 3, 4, 5, 6, 7, 10, 11, 20, 21, 22] : List Byte))) ∧
    (byteAt w 0 = 0xE7 → policy = 1 ∨ policy = 2 → (accepts num policy 0 w).isSome = true)

/-- R214, R216: `SCAN` finds exactly the packets of `scan_from(0)`, which has one value, and leaves them in
`OUTQ` in order. -/
def Obligations.ScanFindsScanFrom : Prop :=
  ∀ (s : State) (sb : List Byte), s.fault = false → sbOperand s = some sb →
    (∀ max, s.sbMax = some max → sb.length ≤ max) →
    ∃ o p q,
      exec .scan s = .next { s with scanOut := some o, scanPos := p, outq := q, status := 0 } ∧
      ScanFrom (numOf s.num) s.navPolicy s.chkRejectMask sb 0 q ∧
      ∀ q', ScanFrom (numOf s.num) s.navPolicy s.chkRejectMask sb 0 q' → q' = q

/-- R214, R215, R26, R25: a scan ends with every byte consumed or at an incomplete candidate, its position
never past the end, and the packets it found fit in the bytes it consumed. -/
def Obligations.ScanEndsWhereItStops : Prop :=
  ∀ (s t : State) (sb : List Byte), s.fault = false → sbOperand s = some sb →
    exec .scan s = .next t → t.fault = false →
    72 * t.outq.length ≤ t.scanPos ∧ t.scanPos ≤ sb.length ∧ t.status = 0 ∧
    ((t.scanOut = some .stopEnd ∧ t.scanPos = sb.length) ∨
      (t.scanOut = some .stopShort ∧ t.scanPos < sb.length ∧ byteAt sb t.scanPos = 0xE7 ∧
        sb.length - t.scanPos < 72))

/-- R217, concatenation: K accepted packets with no gaps scan to exactly those K packets, in order, and
every byte is consumed. -/
def Obligations.ScanOfConcatenatedPackets : Prop :=
  ∀ (s : State) (found : List (List Byte × Packet)), s.fault = false →
    (∀ f ∈ found, f.1.length = 72 ∧
      accepts (numOf s.num) s.navPolicy s.chkRejectMask f.1 = some f.2) →
    sbOperand s = some (found.map Prod.fst).flatten →
    (∀ max, s.sbMax = some max → 72 * found.length ≤ max) →
    exec .scan s = .next { s with
      scanOut := some .stopEnd, scanPos := 72 * found.length, outq := found.map Prod.snd,
      status := 0 }

/-- R217, seek: one accepted packet between bytes that hold no sync byte is found, alone, and every byte is
consumed. -/
def Obligations.ScanSeeksOnePacket : Prop :=
  ∀ (s : State) (before w after : List Byte) (pkt : Packet), s.fault = false →
    (∀ b ∈ before, b ≠ 0xE7) → (∀ b ∈ after, b ≠ 0xE7) → w.length = 72 →
    accepts (numOf s.num) s.navPolicy s.chkRejectMask w = some pkt →
    sbOperand s = some (before ++ w ++ after) →
    (∀ max, s.sbMax = some max → before.length + 72 + after.length ≤ max) →
    exec .scan s = .next { s with
      scanOut := some .stopEnd, scanPos := before.length + 72 + after.length, outq := [pkt],
      status := 0 }

/-! ### Operands that are not finite -/

/-- Multiplication and division of the reference numerics where an operand is not finite or the divisor is
zero: IEEE 754's, which R13 takes by its words "binary32 division and multiplication" (log entry 26). The
pattern of an answer that is not a number is free (log entry 8). -/
def Obligations.ReferenceArithmeticOfSpecialOperands : Prop :=
  ∀ a b : F32,
    (f32IsNaN a = true ∨ f32IsNaN b = true →
      f32IsNaN (refMul a b) = true ∧ f32IsNaN (refDiv a b) = true) ∧
    (f32IsInf a = true → f32IsFinite b = true → f32Val b ≠ 0 →
      f32IsInf (refMul a b) = true ∧ f32Neg (refMul a b) = xor (f32Neg a) (f32Neg b) ∧
      f32IsInf (refMul b a) = true ∧ f32Neg (refMul b a) = xor (f32Neg a) (f32Neg b)) ∧
    (f32IsInf a = true → f32IsFinite b = true → f32Val b = 0 →
      f32IsNaN (refMul a b) = true ∧ f32IsNaN (refMul b a) = true) ∧
    (f32IsInf a = true → f32IsInf b = true →
      f32IsInf (refMul a b) = true ∧ f32Neg (refMul a b) = xor (f32Neg a) (f32Neg b) ∧
      f32IsNaN (refDiv a b) = true) ∧
    (f32IsInf a = true → f32IsFinite b = true →
      f32IsInf (refDiv a b) = true ∧ f32Neg (refDiv a b) = xor (f32Neg a) (f32Neg b)) ∧
    (f32IsFinite a = true → f32IsInf b = true →
      f32IsFinite (refDiv a b) = true ∧ f32Val (refDiv a b) = 0 ∧
      f32Neg (refDiv a b) = xor (f32Neg a) (f32Neg b)) ∧
    (f32IsFinite a = true → f32Val a ≠ 0 → f32IsFinite b = true → f32Val b = 0 →
      f32IsInf (refDiv a b) = true ∧ f32Neg (refDiv a b) = xor (f32Neg a) (f32Neg b)) ∧
    (f32IsFinite a = true → f32Val a = 0 → f32IsFinite b = true → f32Val b = 0 →
      f32IsNaN (refDiv a b) = true)
end

