-- ==== Sys2Proof/Laws/Bytes.lean ====
section
/-! SUPPORT. Little-endian numbers, slices and sums of bytes. -/

namespace Sys2Proof.Machine

/-! Little-endian numbers. -/

@[simp] theorem length_leBytes (n v : Nat) : (leBytes n v).length = n := by
  induction n generalizing v with
  | zero => rfl
  | succ n ih => simp [leBytes, ih]

theorem leNat_append (x y : List Byte) : leNat (x ++ y) = leNat x + 256 ^ x.length * leNat y := by
  induction x with
  | nil => simp [leNat]
  | cons b r ih => simp only [List.cons_append, leNat, ih, List.length_cons, pow_succ]; ring

theorem leNat_lt (x : List Byte) : leNat x < 256 ^ x.length := by
  induction x with
  | nil => simp [leNat]
  | cons b r ih =>
    have := b.isLt
    simp only [leNat, List.length_cons, pow_succ]
    omega

/-- The bytes of a number are that number, reduced to their width. -/
theorem leNat_leBytes (n v : Nat) : leNat (leBytes n v) = v % 256 ^ n := by
  induction n generalizing v with
  | zero => simp [leBytes, leNat, Nat.mod_one]
  | succ n ih =>
    have h := Nat.mod_mul (x := v) (a := 256) (b := 256 ^ n)
    simp only [leBytes, leNat, ih, BitVec.toNat_ofNat]
    rw [show 256 ^ (n + 1) = 256 * 256 ^ n by ring, h]

/-- The bytes of the number that bytes form are those bytes. -/
theorem leBytes_leNat (x : List Byte) : leBytes x.length (leNat x) = x := by
  induction x with
  | nil => rfl
  | cons b r ih =>
    have hb := b.isLt
    have h1 : (b.toNat + 256 * leNat r) / 256 = leNat r := by omega
    have h2 : BitVec.ofNat 8 (b.toNat + 256 * leNat r) = b := by
      apply BitVec.eq_of_toNat_eq
      simp only [BitVec.toNat_ofNat]
      omega
    simp [leNat, leBytes, h1, h2, ih]

/-! Slices. -/

theorem length_slice (b : List Byte) (off n : Nat) : (slice b off n).length = min n (b.length - off) := by
  simp [slice]

theorem slice_all (b : List Byte) : slice b 0 b.length = b := by simp [slice]

theorem getElem?_slice (b : List Byte) (off n k : Nat) :
    (slice b off n)[k]? = if k < n then b[off + k]? else none := by
  simp [slice, List.getElem?_take, List.getElem?_drop]

/-- A slice depends on its own offsets alone. -/
theorem slice_congr {x y : List Byte} {off n : Nat}
    (h : ∀ k, off ≤ k → k < off + n → x[k]? = y[k]?) : slice x off n = slice y off n := by
  apply List.ext_getElem?
  intro k
  rw [getElem?_slice, getElem?_slice]
  split
  · exact h _ (by omega) (by omega)
  · rfl

/-- A slice that lies in the second part of two. -/
theorem slice_append_right (x y : List Byte) {off : Nat} (n : Nat) (h : x.length ≤ off) :
    slice (x ++ y) off n = slice y (off - x.length) n := by
  simp [slice, List.drop_append, List.drop_eq_nil_of_le h]

/-- A slice that lies in the first part of two. -/
theorem slice_append_left (x y : List Byte) {off n : Nat} (h : off + n ≤ x.length) :
    slice (x ++ y) off n = slice x off n := by
  simp only [slice, List.drop_append, List.take_append]
  have h1 : n - (x.drop off).length = 0 := by simp; omega
  rw [h1]; simp

/-- A slice is its first part and its rest. -/
theorem slice_add (b : List Byte) (off m n : Nat) :
    slice b off (m + n) = slice b off m ++ slice b (off + m) n := by
  simp [slice, List.take_add, List.drop_drop]

/-- R54: a read of `m + n` bytes is the two reads together. -/
theorem memRead_add (b : List Byte) (off m n : Nat) (h : off + m ≤ b.length) :
    memRead b off (m + n) = memRead b off m + 256 ^ m * memRead b (off + m) n := by
  have hl : (slice b off m).length = m := by rw [length_slice]; omega
  simp only [memRead, slice_add, leNat_append, hl]

/-- A read below a width stays below it. -/
theorem memRead_lt (b : List Byte) (off n : Nat) : memRead b off n < 256 ^ n := by
  refine lt_of_lt_of_le (leNat_lt _) (Nat.pow_le_pow_right (by norm_num) ?_)
  rw [length_slice]; omega

theorem byteAt_eq (b : List Byte) (off : Nat) : byteAt b off = b[off]?.getD 0 := by
  rw [byteAt, memRead, slice]
  cases h : b.drop off with
  | nil =>
    have : b.length ≤ off := List.drop_eq_nil_iff.1 h
    simp [leNat, List.getElem?_eq_none this]
  | cons x r =>
    have : b[off]? = some x := by
      have := congrArg (fun l => l[0]?) h
      simpa [List.getElem?_drop] using this
    simp [this, leNat]

/-- Three bytes as a number. -/
theorem memRead_three (b : List Byte) (off : Nat) (h : off + 3 ≤ b.length) :
    memRead b off 3 =
      (byteAt b off).toNat + 256 * (byteAt b (off + 1)).toNat + 65536 * (byteAt b (off + 2)).toNat := by
  have h1 : ∀ k, k < 3 → memRead b (off + k) 1 < 256 := fun k _ => by
    simpa using memRead_lt b (off + k) 1
  have e1 := memRead_add b off 1 2 (by omega)
  have e2 := memRead_add b (off + 1) 1 1 (by omega)
  have h0 := h1 0 (by omega); have h1' := h1 1 (by omega); have h2 := h1 2 (by omega)
  simp only [byteAt, BitVec.toNat_ofNat]
  simp only [Nat.add_zero] at h0
  rw [show off + 1 + 1 = off + 2 by omega] at e2
  norm_num at e1 e2
  omega

/-! Sums. -/

theorem byteSum_append (x y : List Byte) : byteSum (x ++ y) = byteSum x + byteSum y := by
  induction x with
  | nil => simp [byteSum]
  | cons b r ih => simp [byteSum, ih]; omega

theorem byteSum_eq_sum (x : List Byte) : byteSum x = (x.map BitVec.toNat).sum := by
  induction x with
  | nil => rfl
  | cons b r ih => simp [byteSum, ih]

theorem sum8_append (x y : List Byte) : sum8 (x ++ y) = sum8 x + sum8 y := by
  simp [sum8, byteSum_append, BitVec.ofNat_add]

theorem sum8_singleton (b : Byte) : sum8 [b] = b := by simp [sum8, byteSum]

@[simp] theorem sum8_nil : sum8 [] = 0 := rfl

/-- The checksum of a range is that of its two parts together. -/
theorem csumOf_split (b : List Byte) {lo mid hi : Nat} (h1 : lo ≤ mid) (h2 : mid ≤ hi) :
    csumOf b lo hi = csumOf b lo mid + csumOf b (mid + 1) hi := by
  rw [csumOf, show hi + 1 - lo = (mid + 1 - lo) + (hi + 1 - (mid + 1)) by omega, slice_add,
    sum8_append]
  simp only [csumOf]
  rw [show lo + (mid + 1 - lo) = mid + 1 by omega]

/-- The checksum of one byte inside the buffer. -/
theorem csumOf_self (b : List Byte) {i : Nat} (h : i < b.length) : csumOf b i i = byteAt b i := by
  have : slice b i (i + 1 - i) = [b[i]] := by
    rw [show i + 1 - i = 1 by omega]
    apply List.ext_getElem?
    intro k
    rw [getElem?_slice]
    cases k with
    | zero => simp [h]
    | succ k => simp
  rw [csumOf, this, sum8_singleton, byteAt_eq]
  simp [h]

end Sys2Proof.Machine
end

