-- ==== Sys2Proof/Laws/Memory.lean ====
section
/-! SUPPORT. What the operations on a buffer do: a read after a write, the canonical form kept by every
operation, and ranges of bytes. -/

namespace Sys2Proof.Machine

@[simp] theorem read_nil (a : Nat) : Memory.read [] a = none := rfl

/-- A byte that was written reads back. -/
@[simp] theorem read_write_same (m : Memory) (a : Nat) (b : Byte) : (m.write a b).read a = some b := by
  induction m with
  | nil => simp [Memory.write, Memory.read]
  | cons c r ih =>
    obtain ⟨k, x⟩ := c
    simp only [Memory.write]
    split
    · simp [Memory.read]
    · split
      · simp [Memory.read]
      · rename_i h1 h2
        have : k ≠ a := fun h => h2 h.symm
        simp [Memory.read, this, ih]

/-- A write leaves every other byte alone. -/
theorem read_write_other (m : Memory) {a c : Nat} (b : Byte) (h : c ≠ a) :
    (m.write a b).read c = m.read c := by
  induction m with
  | nil => simp [Memory.write, Memory.read, h.symm]
  | cons e r ih =>
    obtain ⟨k, x⟩ := e
    simp only [Memory.write]
    split
    · simp [Memory.read, h.symm]
    · split
      · rename_i h1 h2
        subst h2
        simp [Memory.read, h.symm]
      · simp only [Memory.read, ih]

theorem read_write (m : Memory) (a c : Nat) (b : Byte) :
    (m.write a b).read c = if c = a then some b else m.read c := by
  split
  · rename_i h; subst h; simp
  · rename_i h; exact read_write_other m b h

/-- The bytes after a write are the written one and the ones before. -/
theorem mem_write {m : Memory} {a : Nat} {b : Byte} {c : Host.Cell} (h : c ∈ m.write a b) :
    c = (a, b) ∨ c ∈ m := by
  induction m with
  | nil => simpa [Memory.write] using h
  | cons e r ih =>
    obtain ⟨k, x⟩ := e
    simp only [Memory.write] at h
    split at h
    · rcases List.mem_cons.1 h with h | h
      · exact .inl h
      · exact .inr h
    · split at h
      · rcases List.mem_cons.1 h with h | h
        · exact .inl h
        · exact .inr (List.mem_cons_of_mem _ h)
      · rcases List.mem_cons.1 h with h | h
        · exact .inr (h ▸ List.mem_cons_self ..)
        · rcases ih h with h | h
          · exact .inl h
          · exact .inr (List.mem_cons_of_mem _ h)

/-- A write keeps the canonical form. -/
theorem wf_write {m : Memory} (h : m.wf) (a : Nat) (b : Byte) : (m.write a b).wf := by
  induction m with
  | nil => simp [Memory.write, Memory.wf]
  | cons e r ih =>
    obtain ⟨k, x⟩ := e
    have hr : Memory.wf r := (List.pairwise_cons.1 h).2
    have hk : ∀ c ∈ r, k < c.1 := (List.pairwise_cons.1 h).1
    simp only [Memory.write]
    split
    · rename_i hlt
      refine List.pairwise_cons.2 ⟨fun c hc => ?_, h⟩
      rcases List.mem_cons.1 hc with rfl | hc
      · exact hlt
      · exact lt_trans hlt (hk c hc)
    · split
      · rename_i h1 h2
        subst h2
        exact List.pairwise_cons.2 ⟨hk, hr⟩
      · rename_i h1 h2
        refine List.pairwise_cons.2 ⟨fun c hc => ?_, ih hr⟩
        rcases mem_write hc with rfl | hc
        · show k < a; omega
        · exact hk c hc

/-- A range write keeps the canonical form. -/
theorem wf_writeRange {m : Memory} (h : m.wf) (a : Nat) (bs : List Byte) : (m.writeRange a bs).wf := by
  induction bs generalizing m a with
  | nil => exact h
  | cons b r ih => exact ih (wf_write h a b) (a + 1)

/-- The bytes after a range write lie in the range or were there before. -/
theorem mem_writeRange {m : Memory} {a : Nat} {bs : List Byte} {c : Host.Cell}
    (h : c ∈ m.writeRange a bs) : (a ≤ c.1 ∧ c.1 < a + bs.length) ∨ c ∈ m := by
  induction bs generalizing m a with
  | nil => exact .inr h
  | cons b r ih =>
    rcases ih h with ⟨h1, h2⟩ | h
    · left; simp only [List.length_cons]; omega
    · rcases mem_write h with rfl | h
      · left; simp
      · exact .inr h

/-- A buffer made of bytes is in canonical form. -/
theorem wf_ofBytes (bs : List Byte) : (Memory.ofBytes bs).wf :=
  wf_writeRange (m := []) List.Pairwise.nil 0 bs

/-- A buffer made of bytes lies inside their number. -/
theorem mem_ofBytes {bs : List Byte} {c : Host.Cell} (h : c ∈ Memory.ofBytes bs) : c.1 < bs.length := by
  rcases mem_writeRange h with ⟨_, h⟩ | h
  · simpa using h
  · simp at h

/-- What a range write leaves at each offset. -/
theorem read_writeRange (m : Memory) (a : Nat) (bs : List Byte) (c : Nat) :
    (m.writeRange a bs).read c =
      if a ≤ c ∧ c < a + bs.length then bs[c - a]? else m.read c := by
  induction bs generalizing m a with
  | nil =>
    have : ¬ (a ≤ c ∧ c < a) := by omega
    simp [Memory.writeRange, this]
  | cons b r ih =>
    rw [Memory.writeRange, ih]
    by_cases h : c = a
    · subst h
      have h1 : ¬ (c + 1 ≤ c ∧ c < c + 1 + r.length) := by omega
      simp
    · by_cases h2 : a + 1 ≤ c ∧ c < a + 1 + r.length
      · have h3 : a ≤ c ∧ c < a + (r.length + 1) := by omega
        have h4 : c - a = c - (a + 1) + 1 := by omega
        simp [h2, h3, h4]
      · have h3 : ¬ (a ≤ c ∧ c < a + (r.length + 1)) := by omega
        simp only [h2, List.length_cons, h3, if_false]
        exact read_write_other m b h

/-- A range write is what `StoredAt` says. -/
theorem storedAt_writeRange (m : Memory) (a : Nat) (bs : List Byte) :
    StoredAt (m.writeRange a bs) m a bs := fun c => read_writeRange m a bs c

/-- What a buffer made of bytes reads as. -/
theorem read_ofBytes (bs : List Byte) (c : Nat) : (Memory.ofBytes bs).read c = bs[c]? := by
  rw [Memory.ofBytes, read_writeRange]
  by_cases h : c < bs.length
  · simp [h]
  · simp [h, Memory.read]

/-- Reading a range succeeds with the bytes that stand in it, all of them. -/
theorem readRange_eq_some (m : Memory) (a n : Nat) (bs : List Byte) :
    m.readRange a n = some bs ↔ bs.length = n ∧ ∀ k, k < n → m.read (a + k) = bs[k]? := by
  induction n generalizing a bs with
  | zero => cases bs <;> simp [Memory.readRange]
  | succ n ih =>
    simp only [Memory.readRange]
    constructor
    · intro h
      split at h
      · rename_i b r hb hr
        cases h
        obtain ⟨hl, hk⟩ := (ih (a + 1) r).1 hr
        refine ⟨by simp [hl], fun k hkn => ?_⟩
        cases k with
        | zero => simpa using hb
        | succ k =>
          have := hk k (by omega)
          rw [show a + (k + 1) = a + 1 + k by omega]
          simpa using this
      · cases h
    · rintro ⟨hl, hk⟩
      cases bs with
      | nil => simp at hl
      | cons b r =>
        have h0 := hk 0 (by omega)
        have hr : m.readRange (a + 1) n = some r :=
          (ih (a + 1) r).2 ⟨by simpa using hl, fun k hkn => by
            have := hk (k + 1) (by omega)
            rw [show a + (k + 1) = a + 1 + k by omega] at this
            simpa using this⟩
        simp only [Nat.add_zero, List.getElem?_cons_zero] at h0
        simp [h0, hr]

/-- Reading a range fails exactly where a byte of it holds no value. -/
theorem readRange_eq_none (m : Memory) (a n : Nat) :
    m.readRange a n = none ↔ ∃ k, k < n ∧ m.read (a + k) = none := by
  induction n generalizing a with
  | zero => simp [Memory.readRange]
  | succ n ih =>
    simp only [Memory.readRange]
    constructor
    · intro h
      split at h
      · cases h
      · rename_i hno
        cases hb : m.read a with
        | none => exact ⟨0, by omega, by simpa using hb⟩
        | some b =>
          cases hr : m.readRange (a + 1) n with
          | some r => exact absurd hr (hno b r hb)
          | none =>
            obtain ⟨k, hk, hn⟩ := (ih (a + 1)).1 hr
            exact ⟨k + 1, by omega, by rwa [show a + (k + 1) = a + 1 + k by omega]⟩
    · rintro ⟨k, hk, hn⟩
      cases k with
      | zero => simp at hn; simp [hn]
      | succ k =>
        have : m.readRange (a + 1) n = none :=
          (ih (a + 1)).2 ⟨k, by omega, by rwa [show a + 1 + k = a + (k + 1) by omega]⟩
        simp [this]

/-- The number of bytes a range read gives. -/
theorem length_readRange {m : Memory} {a n : Nat} {bs : List Byte} (h : m.readRange a n = some bs) :
    bs.length = n := ((readRange_eq_some m a n bs).1 h).1

/-- One byte of a range that was read. -/
theorem read_of_readRange {m : Memory} {a n : Nat} {bs : List Byte} (h : m.readRange a n = some bs)
    {k : Nat} (hk : k < n) : m.read (a + k) = bs[k]? := ((readRange_eq_some m a n bs).1 h).2 k hk

/-- A range that was just written reads back, whole. -/
theorem readRange_writeRange (m : Memory) (a : Nat) (bs : List Byte) :
    (m.writeRange a bs).readRange a bs.length = some bs := by
  refine (readRange_eq_some _ _ _ _).2 ⟨rfl, fun k hk => ?_⟩
  rw [read_writeRange, if_pos (by omega), show a + k - a = k by omega]

/-- A buffer made of bytes gives them back. -/
theorem readRange_ofBytes (bs : List Byte) : (Memory.ofBytes bs).readRange 0 bs.length = some bs :=
  readRange_writeRange [] 0 bs

/-- The buffers after reset hold nothing, in canonical form. -/
theorem wf_reset : State.reset.sp.wf ∧ State.reset.pb.wf ∧ State.reset.sb.wf :=
  ⟨List.Pairwise.nil, List.Pairwise.nil, List.Pairwise.nil⟩

end Sys2Proof.Machine
end

