-- ==== Sys2Proof/Laws/State.lean ====
section
/-! SUPPORT. What each named update of the state leaves in each of its fields, one lemma a field, so that
no proof unfolds a record update. -/

namespace Sys2Proof.Machine

/-! The end of a command. -/

@[simp] theorem complete_fault (s : State) : (complete s).fault = s.fault := rfl
@[simp] theorem complete_status (s : State) : (complete s).status = statusOk := rfl
@[simp] theorem complete_scanPos (s : State) : (complete s).scanPos = s.scanPos := rfl
@[simp] theorem complete_outq (s : State) : (complete s).outq = s.outq := rfl
@[simp] theorem complete_cmdOp (s : State) : (complete s).cmdOp = s.cmdOp := rfl
@[simp] theorem complete_fx (s : State) : (complete s).fx = s.fx := rfl
@[simp] theorem complete_pk (s : State) : (complete s).pk = s.pk := rfl
@[simp] theorem complete_sc (s : State) : (complete s).sc = s.sc := rfl
@[simp] theorem complete_scTagByte (s : State) : (complete s).scTagByte = s.scTagByte := rfl
@[simp] theorem complete_sp (s : State) : (complete s).sp = s.sp := rfl
@[simp] theorem complete_pb (s : State) : (complete s).pb = s.pb := rfl
@[simp] theorem complete_pbLen (s : State) : (complete s).pbLen = s.pbLen := rfl
@[simp] theorem complete_sb (s : State) : (complete s).sb = s.sb := rfl
@[simp] theorem complete_sbLen (s : State) : (complete s).sbLen = s.sbLen := rfl
@[simp] theorem complete_navPolicy (s : State) : (complete s).navPolicy = s.navPolicy := rfl
@[simp] theorem complete_chkRejectMask (s : State) :
    (complete s).chkRejectMask = s.chkRejectMask := rfl
@[simp] theorem complete_sbMax (s : State) : (complete s).sbMax = s.sbMax := rfl
@[simp] theorem complete_num (s : State) : (complete s).num = s.num := rfl
@[simp] theorem complete_csumOut (s : State) : (complete s).csumOut = s.csumOut := rfl
@[simp] theorem complete_routeOut (s : State) : (complete s).routeOut = s.routeOut := rfl
@[simp] theorem complete_syncOut (s : State) : (complete s).syncOut = s.syncOut := rfl
@[simp] theorem complete_scanOut (s : State) : (complete s).scanOut = s.scanOut := rfl
@[simp] theorem complete_freeCtr (s : State) : (complete s).freeCtr = s.freeCtr := rfl
@[simp] theorem complete_host (s : State) : (complete s).host = s.host := rfl

/-! A command met while `FAULT` is set. -/

@[simp] theorem endFaulted_fault (s : State) : (endFaulted s).fault = s.fault := rfl
@[simp] theorem endFaulted_status (s : State) : (endFaulted s).status = statusFaulted := rfl
@[simp] theorem endFaulted_scanPos (s : State) : (endFaulted s).scanPos = s.scanPos := rfl
@[simp] theorem endFaulted_outq (s : State) : (endFaulted s).outq = s.outq := rfl
@[simp] theorem endFaulted_cmdOp (s : State) : (endFaulted s).cmdOp = s.cmdOp := rfl
@[simp] theorem endFaulted_fx (s : State) : (endFaulted s).fx = s.fx := rfl
@[simp] theorem endFaulted_pk (s : State) : (endFaulted s).pk = s.pk := rfl
@[simp] theorem endFaulted_sc (s : State) : (endFaulted s).sc = s.sc := rfl
@[simp] theorem endFaulted_scTagByte (s : State) : (endFaulted s).scTagByte = s.scTagByte := rfl
@[simp] theorem endFaulted_sp (s : State) : (endFaulted s).sp = s.sp := rfl
@[simp] theorem endFaulted_pb (s : State) : (endFaulted s).pb = s.pb := rfl
@[simp] theorem endFaulted_pbLen (s : State) : (endFaulted s).pbLen = s.pbLen := rfl
@[simp] theorem endFaulted_sb (s : State) : (endFaulted s).sb = s.sb := rfl
@[simp] theorem endFaulted_sbLen (s : State) : (endFaulted s).sbLen = s.sbLen := rfl
@[simp] theorem endFaulted_navPolicy (s : State) : (endFaulted s).navPolicy = s.navPolicy := rfl
@[simp] theorem endFaulted_chkRejectMask (s : State) :
    (endFaulted s).chkRejectMask = s.chkRejectMask := rfl
@[simp] theorem endFaulted_sbMax (s : State) : (endFaulted s).sbMax = s.sbMax := rfl
@[simp] theorem endFaulted_num (s : State) : (endFaulted s).num = s.num := rfl
@[simp] theorem endFaulted_csumOut (s : State) : (endFaulted s).csumOut = s.csumOut := rfl
@[simp] theorem endFaulted_routeOut (s : State) : (endFaulted s).routeOut = s.routeOut := rfl
@[simp] theorem endFaulted_syncOut (s : State) : (endFaulted s).syncOut = s.syncOut := rfl
@[simp] theorem endFaulted_scanOut (s : State) : (endFaulted s).scanOut = s.scanOut := rfl
@[simp] theorem endFaulted_freeCtr (s : State) : (endFaulted s).freeCtr = s.freeCtr := rfl
@[simp] theorem endFaulted_host (s : State) : (endFaulted s).host = s.host := rfl

/-! The errors. -/

@[simp] theorem raise_structuralShort_status (s : State) :
    (raise .structuralShort s).status = statusErrShort := rfl
@[simp] theorem raise_structuralShort_fault (s : State) :
    (raise .structuralShort s).fault = s.fault := rfl
@[simp] theorem raise_structuralShort_pk (s : State) : (raise .structuralShort s).pk = ({} : PkRegs) := rfl
@[simp] theorem raise_structuralShort_sc (s : State) : (raise .structuralShort s).sc = ({} : ScRegs) := rfl
@[simp] theorem raise_structuralSync_status (s : State) :
    (raise .structuralSync s).status = statusErrSync := rfl
@[simp] theorem raise_structuralSync_fault (s : State) :
    (raise .structuralSync s).fault = s.fault := rfl
@[simp] theorem raise_structuralSync_pk (s : State) : (raise .structuralSync s).pk = ({} : PkRegs) := rfl
@[simp] theorem raise_structuralSync_sc (s : State) : (raise .structuralSync s).sc = ({} : ScRegs) := rfl
@[simp] theorem raise_unrecognizedNav_status (s : State) :
    (raise .unrecognizedNav s).status = statusErrNav := rfl
@[simp] theorem raise_unrecognizedNav_fault (s : State) :
    (raise .unrecognizedNav s).fault = s.fault := rfl
@[simp] theorem raise_unrecognizedNav_pk (s : State) : (raise .unrecognizedNav s).pk = ({} : PkRegs) := rfl
@[simp] theorem raise_unrecognizedNav_sc (s : State) : (raise .unrecognizedNav s).sc = ({} : ScRegs) := rfl
@[simp] theorem raise_preconditionViolation_status (s : State) :
    (raise .preconditionViolation s).status = statusFaulted := rfl
@[simp] theorem raise_preconditionViolation_fault (s : State) : (raise .preconditionViolation s).fault = true := rfl
@[simp] theorem raise_preconditionViolation_pk (s : State) : (raise .preconditionViolation s).pk = s.pk := rfl
@[simp] theorem raise_preconditionViolation_sc (s : State) : (raise .preconditionViolation s).sc = s.sc := rfl
@[simp] theorem raise_scanPos (e : Err) (s : State) : (raise e s).scanPos = s.scanPos := by cases e <;> rfl
@[simp] theorem raise_outq (e : Err) (s : State) : (raise e s).outq = s.outq := by cases e <;> rfl
@[simp] theorem raise_cmdOp (e : Err) (s : State) : (raise e s).cmdOp = s.cmdOp := by cases e <;> rfl
@[simp] theorem raise_fx (e : Err) (s : State) : (raise e s).fx = s.fx := by cases e <;> rfl
@[simp] theorem raise_scTagByte (e : Err) (s : State) : (raise e s).scTagByte = s.scTagByte := by cases e <;> rfl
@[simp] theorem raise_sp (e : Err) (s : State) : (raise e s).sp = s.sp := by cases e <;> rfl
@[simp] theorem raise_pb (e : Err) (s : State) : (raise e s).pb = s.pb := by cases e <;> rfl
@[simp] theorem raise_pbLen (e : Err) (s : State) : (raise e s).pbLen = s.pbLen := by cases e <;> rfl
@[simp] theorem raise_sb (e : Err) (s : State) : (raise e s).sb = s.sb := by cases e <;> rfl
@[simp] theorem raise_sbLen (e : Err) (s : State) : (raise e s).sbLen = s.sbLen := by cases e <;> rfl
@[simp] theorem raise_navPolicy (e : Err) (s : State) : (raise e s).navPolicy = s.navPolicy := by cases e <;> rfl
@[simp] theorem raise_chkRejectMask (e : Err) (s : State) : (raise e s).chkRejectMask = s.chkRejectMask := by cases e <;> rfl
@[simp] theorem raise_sbMax (e : Err) (s : State) : (raise e s).sbMax = s.sbMax := by cases e <;> rfl
@[simp] theorem raise_num (e : Err) (s : State) : (raise e s).num = s.num := by cases e <;> rfl
@[simp] theorem raise_csumOut (e : Err) (s : State) : (raise e s).csumOut = s.csumOut := by cases e <;> rfl
@[simp] theorem raise_routeOut (e : Err) (s : State) : (raise e s).routeOut = s.routeOut := by cases e <;> rfl
@[simp] theorem raise_syncOut (e : Err) (s : State) : (raise e s).syncOut = s.syncOut := by cases e <;> rfl
@[simp] theorem raise_scanOut (e : Err) (s : State) : (raise e s).scanOut = s.scanOut := by cases e <;> rfl
@[simp] theorem raise_freeCtr (e : Err) (s : State) : (raise e s).freeCtr = s.freeCtr := by cases e <;> rfl
@[simp] theorem raise_host (e : Err) (s : State) : (raise e s).host = s.host := by cases e <;> rfl

/-! Reset. -/

@[simp] theorem resetBlock_fault (p : BitVec 2) (m : BitVec 3) (s : State) :
    (resetBlock p m s).fault = false := rfl
@[simp] theorem resetBlock_status (p : BitVec 2) (m : BitVec 3) (s : State) :
    (resetBlock p m s).status = 0 := rfl
@[simp] theorem resetBlock_scanPos (p : BitVec 2) (m : BitVec 3) (s : State) :
    (resetBlock p m s).scanPos = 0 := rfl
@[simp] theorem resetBlock_outq (p : BitVec 2) (m : BitVec 3) (s : State) :
    (resetBlock p m s).outq = [] := rfl
@[simp] theorem resetBlock_cmdOp (p : BitVec 2) (m : BitVec 3) (s : State) :
    (resetBlock p m s).cmdOp = none := rfl
@[simp] theorem resetBlock_fx (p : BitVec 2) (m : BitVec 3) (s : State) :
    (resetBlock p m s).fx = ({} : FxRegs) := rfl
@[simp] theorem resetBlock_pk (p : BitVec 2) (m : BitVec 3) (s : State) :
    (resetBlock p m s).pk = ({} : PkRegs) := rfl
@[simp] theorem resetBlock_sc (p : BitVec 2) (m : BitVec 3) (s : State) :
    (resetBlock p m s).sc = ({} : ScRegs) := rfl
@[simp] theorem resetBlock_scTagByte (p : BitVec 2) (m : BitVec 3) (s : State) :
    (resetBlock p m s).scTagByte = none := rfl
@[simp] theorem resetBlock_sp (p : BitVec 2) (m : BitVec 3) (s : State) :
    (resetBlock p m s).sp = [] := rfl
@[simp] theorem resetBlock_pb (p : BitVec 2) (m : BitVec 3) (s : State) :
    (resetBlock p m s).pb = [] := rfl
@[simp] theorem resetBlock_pbLen (p : BitVec 2) (m : BitVec 3) (s : State) :
    (resetBlock p m s).pbLen = none := rfl
@[simp] theorem resetBlock_sb (p : BitVec 2) (m : BitVec 3) (s : State) :
    (resetBlock p m s).sb = [] := rfl
@[simp] theorem resetBlock_sbLen (p : BitVec 2) (m : BitVec 3) (s : State) :
    (resetBlock p m s).sbLen = none := rfl
@[simp] theorem resetBlock_navPolicy (p : BitVec 2) (m : BitVec 3) (s : State) :
    (resetBlock p m s).navPolicy = p := rfl
@[simp] theorem resetBlock_chkRejectMask (p : BitVec 2) (m : BitVec 3) (s : State) :
    (resetBlock p m s).chkRejectMask = m := rfl
@[simp] theorem resetBlock_sbMax (p : BitVec 2) (m : BitVec 3) (s : State) :
    (resetBlock p m s).sbMax = s.sbMax := rfl
@[simp] theorem resetBlock_num (p : BitVec 2) (m : BitVec 3) (s : State) :
    (resetBlock p m s).num = s.num := rfl
@[simp] theorem resetBlock_csumOut (p : BitVec 2) (m : BitVec 3) (s : State) :
    (resetBlock p m s).csumOut = none := rfl
@[simp] theorem resetBlock_routeOut (p : BitVec 2) (m : BitVec 3) (s : State) :
    (resetBlock p m s).routeOut = none := rfl
@[simp] theorem resetBlock_syncOut (p : BitVec 2) (m : BitVec 3) (s : State) :
    (resetBlock p m s).syncOut = none := rfl
@[simp] theorem resetBlock_scanOut (p : BitVec 2) (m : BitVec 3) (s : State) :
    (resetBlock p m s).scanOut = none := rfl
@[simp] theorem resetBlock_freeCtr (p : BitVec 2) (m : BitVec 3) (s : State) :
    (resetBlock p m s).freeCtr = s.freeCtr := rfl
@[simp] theorem resetBlock_host (p : BitVec 2) (m : BitVec 3) (s : State) :
    (resetBlock p m s).host = s.host := rfl

/-! The issue of a selector. -/

@[simp] theorem issueFetch_cmd_cmdOp (op : BitVec 4) (r : List HostEvent) (s : State) :
    (issueFetch (.cmd op) r s).cmdOp = some op := rfl
@[simp] theorem issueFetch_fault (sel : Selector) (r : List HostEvent) (s : State) :
    (issueFetch sel r s).fault = s.fault := by cases sel <;> rfl
@[simp] theorem issueFetch_status (sel : Selector) (r : List HostEvent) (s : State) :
    (issueFetch sel r s).status = s.status := by cases sel <;> rfl
@[simp] theorem issueFetch_scanPos (sel : Selector) (r : List HostEvent) (s : State) :
    (issueFetch sel r s).scanPos = s.scanPos := by cases sel <;> rfl
@[simp] theorem issueFetch_outq (sel : Selector) (r : List HostEvent) (s : State) :
    (issueFetch sel r s).outq = s.outq := by cases sel <;> rfl
@[simp] theorem issueFetch_fx (sel : Selector) (r : List HostEvent) (s : State) :
    (issueFetch sel r s).fx = s.fx := by cases sel <;> rfl
@[simp] theorem issueFetch_pk (sel : Selector) (r : List HostEvent) (s : State) :
    (issueFetch sel r s).pk = s.pk := by cases sel <;> rfl
@[simp] theorem issueFetch_sc (sel : Selector) (r : List HostEvent) (s : State) :
    (issueFetch sel r s).sc = s.sc := by cases sel <;> rfl
@[simp] theorem issueFetch_scTagByte (sel : Selector) (r : List HostEvent) (s : State) :
    (issueFetch sel r s).scTagByte = s.scTagByte := by cases sel <;> rfl
@[simp] theorem issueFetch_sp (sel : Selector) (r : List HostEvent) (s : State) :
    (issueFetch sel r s).sp = s.sp := by cases sel <;> rfl
@[simp] theorem issueFetch_pb (sel : Selector) (r : List HostEvent) (s : State) :
    (issueFetch sel r s).pb = s.pb := by cases sel <;> rfl
@[simp] theorem issueFetch_pbLen (sel : Selector) (r : List HostEvent) (s : State) :
    (issueFetch sel r s).pbLen = s.pbLen := by cases sel <;> rfl
@[simp] theorem issueFetch_sb (sel : Selector) (r : List HostEvent) (s : State) :
    (issueFetch sel r s).sb = s.sb := by cases sel <;> rfl
@[simp] theorem issueFetch_sbLen (sel : Selector) (r : List HostEvent) (s : State) :
    (issueFetch sel r s).sbLen = s.sbLen := by cases sel <;> rfl
@[simp] theorem issueFetch_navPolicy (sel : Selector) (r : List HostEvent) (s : State) :
    (issueFetch sel r s).navPolicy = s.navPolicy := by cases sel <;> rfl
@[simp] theorem issueFetch_chkRejectMask (sel : Selector) (r : List HostEvent) (s : State) :
    (issueFetch sel r s).chkRejectMask = s.chkRejectMask := by cases sel <;> rfl
@[simp] theorem issueFetch_sbMax (sel : Selector) (r : List HostEvent) (s : State) :
    (issueFetch sel r s).sbMax = s.sbMax := by cases sel <;> rfl
@[simp] theorem issueFetch_num (sel : Selector) (r : List HostEvent) (s : State) :
    (issueFetch sel r s).num = s.num := by cases sel <;> rfl
@[simp] theorem issueFetch_csumOut (sel : Selector) (r : List HostEvent) (s : State) :
    (issueFetch sel r s).csumOut = s.csumOut := by cases sel <;> rfl
@[simp] theorem issueFetch_routeOut (sel : Selector) (r : List HostEvent) (s : State) :
    (issueFetch sel r s).routeOut = s.routeOut := by cases sel <;> rfl
@[simp] theorem issueFetch_syncOut (sel : Selector) (r : List HostEvent) (s : State) :
    (issueFetch sel r s).syncOut = s.syncOut := by cases sel <;> rfl
@[simp] theorem issueFetch_scanOut (sel : Selector) (r : List HostEvent) (s : State) :
    (issueFetch sel r s).scanOut = s.scanOut := by cases sel <;> rfl
@[simp] theorem issueFetch_freeCtr (sel : Selector) (r : List HostEvent) (s : State) :
    (issueFetch sel r s).freeCtr = s.freeCtr := by cases sel <;> rfl
@[simp] theorem issueFetch_host (sel : Selector) (r : List HostEvent) (s : State) :
    (issueFetch sel r s).host = r := by cases sel <;> rfl

/-! The count of free values. -/

@[simp] theorem advanceFree_fault (k : Nat) (s : State) : (advanceFree k s).fault = s.fault := rfl
@[simp] theorem advanceFree_status (k : Nat) (s : State) :
    (advanceFree k s).status = s.status := rfl
@[simp] theorem advanceFree_scanPos (k : Nat) (s : State) :
    (advanceFree k s).scanPos = s.scanPos := rfl
@[simp] theorem advanceFree_outq (k : Nat) (s : State) : (advanceFree k s).outq = s.outq := rfl
@[simp] theorem advanceFree_cmdOp (k : Nat) (s : State) : (advanceFree k s).cmdOp = s.cmdOp := rfl
@[simp] theorem advanceFree_fx (k : Nat) (s : State) : (advanceFree k s).fx = s.fx := rfl
@[simp] theorem advanceFree_pk (k : Nat) (s : State) : (advanceFree k s).pk = s.pk := rfl
@[simp] theorem advanceFree_sc (k : Nat) (s : State) : (advanceFree k s).sc = s.sc := rfl
@[simp] theorem advanceFree_scTagByte (k : Nat) (s : State) :
    (advanceFree k s).scTagByte = s.scTagByte := rfl
@[simp] theorem advanceFree_sp (k : Nat) (s : State) : (advanceFree k s).sp = s.sp := rfl
@[simp] theorem advanceFree_pb (k : Nat) (s : State) : (advanceFree k s).pb = s.pb := rfl
@[simp] theorem advanceFree_pbLen (k : Nat) (s : State) : (advanceFree k s).pbLen = s.pbLen := rfl
@[simp] theorem advanceFree_sb (k : Nat) (s : State) : (advanceFree k s).sb = s.sb := rfl
@[simp] theorem advanceFree_sbLen (k : Nat) (s : State) : (advanceFree k s).sbLen = s.sbLen := rfl
@[simp] theorem advanceFree_navPolicy (k : Nat) (s : State) :
    (advanceFree k s).navPolicy = s.navPolicy := rfl
@[simp] theorem advanceFree_chkRejectMask (k : Nat) (s : State) :
    (advanceFree k s).chkRejectMask = s.chkRejectMask := rfl
@[simp] theorem advanceFree_sbMax (k : Nat) (s : State) : (advanceFree k s).sbMax = s.sbMax := rfl
@[simp] theorem advanceFree_num (k : Nat) (s : State) : (advanceFree k s).num = s.num := rfl
@[simp] theorem advanceFree_csumOut (k : Nat) (s : State) :
    (advanceFree k s).csumOut = s.csumOut := rfl
@[simp] theorem advanceFree_routeOut (k : Nat) (s : State) :
    (advanceFree k s).routeOut = s.routeOut := rfl
@[simp] theorem advanceFree_syncOut (k : Nat) (s : State) :
    (advanceFree k s).syncOut = s.syncOut := rfl
@[simp] theorem advanceFree_scanOut (k : Nat) (s : State) :
    (advanceFree k s).scanOut = s.scanOut := rfl
@[simp] theorem advanceFree_freeCtr (k : Nat) (s : State) :
    (advanceFree k s).freeCtr = s.freeCtr + k := rfl
@[simp] theorem advanceFree_host (k : Nat) (s : State) : (advanceFree k s).host = s.host := rfl

/-! The fixed-point registers. -/

@[simp] theorem putFxBytes_fault (n : I32) (s : State) : (putFxBytes n s).fault = s.fault := rfl
@[simp] theorem putFxBytes_status (n : I32) (s : State) : (putFxBytes n s).status = s.status := rfl
@[simp] theorem putFxBytes_scanPos (n : I32) (s : State) :
    (putFxBytes n s).scanPos = s.scanPos := rfl
@[simp] theorem putFxBytes_outq (n : I32) (s : State) : (putFxBytes n s).outq = s.outq := rfl
@[simp] theorem putFxBytes_cmdOp (n : I32) (s : State) : (putFxBytes n s).cmdOp = s.cmdOp := rfl
@[simp] theorem putFxBytes_fx (n : I32) (s : State) :
    (putFxBytes n s).fx = { s.fx with
      b0 := some (packByte n 0), b1 := some (packByte n 1), b2 := some (packByte n 2) } := rfl
@[simp] theorem putFxBytes_pk (n : I32) (s : State) : (putFxBytes n s).pk = s.pk := rfl
@[simp] theorem putFxBytes_sc (n : I32) (s : State) : (putFxBytes n s).sc = s.sc := rfl
@[simp] theorem putFxBytes_scTagByte (n : I32) (s : State) :
    (putFxBytes n s).scTagByte = s.scTagByte := rfl
@[simp] theorem putFxBytes_sp (n : I32) (s : State) : (putFxBytes n s).sp = s.sp := rfl
@[simp] theorem putFxBytes_pb (n : I32) (s : State) : (putFxBytes n s).pb = s.pb := rfl
@[simp] theorem putFxBytes_pbLen (n : I32) (s : State) : (putFxBytes n s).pbLen = s.pbLen := rfl
@[simp] theorem putFxBytes_sb (n : I32) (s : State) : (putFxBytes n s).sb = s.sb := rfl
@[simp] theorem putFxBytes_sbLen (n : I32) (s : State) : (putFxBytes n s).sbLen = s.sbLen := rfl
@[simp] theorem putFxBytes_navPolicy (n : I32) (s : State) :
    (putFxBytes n s).navPolicy = s.navPolicy := rfl
@[simp] theorem putFxBytes_chkRejectMask (n : I32) (s : State) :
    (putFxBytes n s).chkRejectMask = s.chkRejectMask := rfl
@[simp] theorem putFxBytes_sbMax (n : I32) (s : State) : (putFxBytes n s).sbMax = s.sbMax := rfl
@[simp] theorem putFxBytes_num (n : I32) (s : State) : (putFxBytes n s).num = s.num := rfl
@[simp] theorem putFxBytes_csumOut (n : I32) (s : State) :
    (putFxBytes n s).csumOut = s.csumOut := rfl
@[simp] theorem putFxBytes_routeOut (n : I32) (s : State) :
    (putFxBytes n s).routeOut = s.routeOut := rfl
@[simp] theorem putFxBytes_syncOut (n : I32) (s : State) :
    (putFxBytes n s).syncOut = s.syncOut := rfl
@[simp] theorem putFxBytes_scanOut (n : I32) (s : State) :
    (putFxBytes n s).scanOut = s.scanOut := rfl
@[simp] theorem putFxBytes_freeCtr (n : I32) (s : State) :
    (putFxBytes n s).freeCtr = s.freeCtr := rfl
@[simp] theorem putFxBytes_host (n : I32) (s : State) : (putFxBytes n s).host = s.host := rfl

/-! The integer register. -/

@[simp] theorem putFxInt_fault (n : I32) (s : State) : (putFxInt n s).fault = s.fault := rfl
@[simp] theorem putFxInt_status (n : I32) (s : State) : (putFxInt n s).status = s.status := rfl
@[simp] theorem putFxInt_scanPos (n : I32) (s : State) : (putFxInt n s).scanPos = s.scanPos := rfl
@[simp] theorem putFxInt_outq (n : I32) (s : State) : (putFxInt n s).outq = s.outq := rfl
@[simp] theorem putFxInt_cmdOp (n : I32) (s : State) : (putFxInt n s).cmdOp = s.cmdOp := rfl
@[simp] theorem putFxInt_fx (n : I32) (s : State) :
    (putFxInt n s).fx = { s.fx with n := some n } := rfl
@[simp] theorem putFxInt_pk (n : I32) (s : State) : (putFxInt n s).pk = s.pk := rfl
@[simp] theorem putFxInt_sc (n : I32) (s : State) : (putFxInt n s).sc = s.sc := rfl
@[simp] theorem putFxInt_scTagByte (n : I32) (s : State) :
    (putFxInt n s).scTagByte = s.scTagByte := rfl
@[simp] theorem putFxInt_sp (n : I32) (s : State) : (putFxInt n s).sp = s.sp := rfl
@[simp] theorem putFxInt_pb (n : I32) (s : State) : (putFxInt n s).pb = s.pb := rfl
@[simp] theorem putFxInt_pbLen (n : I32) (s : State) : (putFxInt n s).pbLen = s.pbLen := rfl
@[simp] theorem putFxInt_sb (n : I32) (s : State) : (putFxInt n s).sb = s.sb := rfl
@[simp] theorem putFxInt_sbLen (n : I32) (s : State) : (putFxInt n s).sbLen = s.sbLen := rfl
@[simp] theorem putFxInt_navPolicy (n : I32) (s : State) :
    (putFxInt n s).navPolicy = s.navPolicy := rfl
@[simp] theorem putFxInt_chkRejectMask (n : I32) (s : State) :
    (putFxInt n s).chkRejectMask = s.chkRejectMask := rfl
@[simp] theorem putFxInt_sbMax (n : I32) (s : State) : (putFxInt n s).sbMax = s.sbMax := rfl
@[simp] theorem putFxInt_num (n : I32) (s : State) : (putFxInt n s).num = s.num := rfl
@[simp] theorem putFxInt_csumOut (n : I32) (s : State) : (putFxInt n s).csumOut = s.csumOut := rfl
@[simp] theorem putFxInt_routeOut (n : I32) (s : State) :
    (putFxInt n s).routeOut = s.routeOut := rfl
@[simp] theorem putFxInt_syncOut (n : I32) (s : State) : (putFxInt n s).syncOut = s.syncOut := rfl
@[simp] theorem putFxInt_scanOut (n : I32) (s : State) : (putFxInt n s).scanOut = s.scanOut := rfl
@[simp] theorem putFxInt_freeCtr (n : I32) (s : State) : (putFxInt n s).freeCtr = s.freeCtr := rfl
@[simp] theorem putFxInt_host (n : I32) (s : State) : (putFxInt n s).host = s.host := rfl

/-! The value register. -/

@[simp] theorem putFxValue_fault (v : F32) (s : State) : (putFxValue v s).fault = s.fault := rfl
@[simp] theorem putFxValue_status (v : F32) (s : State) : (putFxValue v s).status = s.status := rfl
@[simp] theorem putFxValue_scanPos (v : F32) (s : State) :
    (putFxValue v s).scanPos = s.scanPos := rfl
@[simp] theorem putFxValue_outq (v : F32) (s : State) : (putFxValue v s).outq = s.outq := rfl
@[simp] theorem putFxValue_cmdOp (v : F32) (s : State) : (putFxValue v s).cmdOp = s.cmdOp := rfl
@[simp] theorem putFxValue_fx (v : F32) (s : State) :
    (putFxValue v s).fx = { s.fx with v := some v } := rfl
@[simp] theorem putFxValue_pk (v : F32) (s : State) : (putFxValue v s).pk = s.pk := rfl
@[simp] theorem putFxValue_sc (v : F32) (s : State) : (putFxValue v s).sc = s.sc := rfl
@[simp] theorem putFxValue_scTagByte (v : F32) (s : State) :
    (putFxValue v s).scTagByte = s.scTagByte := rfl
@[simp] theorem putFxValue_sp (v : F32) (s : State) : (putFxValue v s).sp = s.sp := rfl
@[simp] theorem putFxValue_pb (v : F32) (s : State) : (putFxValue v s).pb = s.pb := rfl
@[simp] theorem putFxValue_pbLen (v : F32) (s : State) : (putFxValue v s).pbLen = s.pbLen := rfl
@[simp] theorem putFxValue_sb (v : F32) (s : State) : (putFxValue v s).sb = s.sb := rfl
@[simp] theorem putFxValue_sbLen (v : F32) (s : State) : (putFxValue v s).sbLen = s.sbLen := rfl
@[simp] theorem putFxValue_navPolicy (v : F32) (s : State) :
    (putFxValue v s).navPolicy = s.navPolicy := rfl
@[simp] theorem putFxValue_chkRejectMask (v : F32) (s : State) :
    (putFxValue v s).chkRejectMask = s.chkRejectMask := rfl
@[simp] theorem putFxValue_sbMax (v : F32) (s : State) : (putFxValue v s).sbMax = s.sbMax := rfl
@[simp] theorem putFxValue_num (v : F32) (s : State) : (putFxValue v s).num = s.num := rfl
@[simp] theorem putFxValue_csumOut (v : F32) (s : State) :
    (putFxValue v s).csumOut = s.csumOut := rfl
@[simp] theorem putFxValue_routeOut (v : F32) (s : State) :
    (putFxValue v s).routeOut = s.routeOut := rfl
@[simp] theorem putFxValue_syncOut (v : F32) (s : State) :
    (putFxValue v s).syncOut = s.syncOut := rfl
@[simp] theorem putFxValue_scanOut (v : F32) (s : State) :
    (putFxValue v s).scanOut = s.scanOut := rfl
@[simp] theorem putFxValue_freeCtr (v : F32) (s : State) :
    (putFxValue v s).freeCtr = s.freeCtr := rfl
@[simp] theorem putFxValue_host (v : F32) (s : State) : (putFxValue v s).host = s.host := rfl

/-! The status payload. -/

@[simp] theorem putPayload_fault (b : List Byte) (s : State) :
    (putPayload b s).fault = s.fault := rfl
@[simp] theorem putPayload_status (b : List Byte) (s : State) :
    (putPayload b s).status = s.status := rfl
@[simp] theorem putPayload_scanPos (b : List Byte) (s : State) :
    (putPayload b s).scanPos = s.scanPos := rfl
@[simp] theorem putPayload_outq (b : List Byte) (s : State) : (putPayload b s).outq = s.outq := rfl
@[simp] theorem putPayload_cmdOp (b : List Byte) (s : State) :
    (putPayload b s).cmdOp = s.cmdOp := rfl
@[simp] theorem putPayload_fx (b : List Byte) (s : State) : (putPayload b s).fx = s.fx := rfl
@[simp] theorem putPayload_pk (b : List Byte) (s : State) : (putPayload b s).pk = s.pk := rfl
@[simp] theorem putPayload_sc (b : List Byte) (s : State) : (putPayload b s).sc = s.sc := rfl
@[simp] theorem putPayload_scTagByte (b : List Byte) (s : State) :
    (putPayload b s).scTagByte = s.scTagByte := rfl
@[simp] theorem putPayload_sp (b : List Byte) (s : State) :
    (putPayload b s).sp = s.sp.writeRange 0 b := rfl
@[simp] theorem putPayload_pb (b : List Byte) (s : State) : (putPayload b s).pb = s.pb := rfl
@[simp] theorem putPayload_pbLen (b : List Byte) (s : State) :
    (putPayload b s).pbLen = s.pbLen := rfl
@[simp] theorem putPayload_sb (b : List Byte) (s : State) : (putPayload b s).sb = s.sb := rfl
@[simp] theorem putPayload_sbLen (b : List Byte) (s : State) :
    (putPayload b s).sbLen = s.sbLen := rfl
@[simp] theorem putPayload_navPolicy (b : List Byte) (s : State) :
    (putPayload b s).navPolicy = s.navPolicy := rfl
@[simp] theorem putPayload_chkRejectMask (b : List Byte) (s : State) :
    (putPayload b s).chkRejectMask = s.chkRejectMask := rfl
@[simp] theorem putPayload_sbMax (b : List Byte) (s : State) :
    (putPayload b s).sbMax = s.sbMax := rfl
@[simp] theorem putPayload_num (b : List Byte) (s : State) : (putPayload b s).num = s.num := rfl
@[simp] theorem putPayload_csumOut (b : List Byte) (s : State) :
    (putPayload b s).csumOut = s.csumOut := rfl
@[simp] theorem putPayload_routeOut (b : List Byte) (s : State) :
    (putPayload b s).routeOut = s.routeOut := rfl
@[simp] theorem putPayload_syncOut (b : List Byte) (s : State) :
    (putPayload b s).syncOut = s.syncOut := rfl
@[simp] theorem putPayload_scanOut (b : List Byte) (s : State) :
    (putPayload b s).scanOut = s.scanOut := rfl
@[simp] theorem putPayload_freeCtr (b : List Byte) (s : State) :
    (putPayload b s).freeCtr = s.freeCtr := rfl
@[simp] theorem putPayload_host (b : List Byte) (s : State) : (putPayload b s).host = s.host := rfl

/-! A variant row. -/

@[simp] theorem putVariant_fault (v : Variant) (s : State) : (putVariant v s).fault = s.fault := rfl
@[simp] theorem putVariant_status (v : Variant) (s : State) :
    (putVariant v s).status = s.status := rfl
@[simp] theorem putVariant_scanPos (v : Variant) (s : State) :
    (putVariant v s).scanPos = s.scanPos := rfl
@[simp] theorem putVariant_outq (v : Variant) (s : State) : (putVariant v s).outq = s.outq := rfl
@[simp] theorem putVariant_cmdOp (v : Variant) (s : State) : (putVariant v s).cmdOp = s.cmdOp := rfl
@[simp] theorem putVariant_fx (v : Variant) (s : State) : (putVariant v s).fx = s.fx := rfl
@[simp] theorem putVariant_pk (v : Variant) (s : State) : (putVariant v s).pk = s.pk := rfl
@[simp] theorem putVariant_sc (v : Variant) (s : State) :
    (putVariant v s).sc = { scFields v with present := s.sc.present, tag := s.sc.tag } := rfl
@[simp] theorem putVariant_scTagByte (v : Variant) (s : State) :
    (putVariant v s).scTagByte = s.scTagByte := rfl
@[simp] theorem putVariant_sp (v : Variant) (s : State) : (putVariant v s).sp = s.sp := rfl
@[simp] theorem putVariant_pb (v : Variant) (s : State) : (putVariant v s).pb = s.pb := rfl
@[simp] theorem putVariant_pbLen (v : Variant) (s : State) : (putVariant v s).pbLen = s.pbLen := rfl
@[simp] theorem putVariant_sb (v : Variant) (s : State) : (putVariant v s).sb = s.sb := rfl
@[simp] theorem putVariant_sbLen (v : Variant) (s : State) : (putVariant v s).sbLen = s.sbLen := rfl
@[simp] theorem putVariant_navPolicy (v : Variant) (s : State) :
    (putVariant v s).navPolicy = s.navPolicy := rfl
@[simp] theorem putVariant_chkRejectMask (v : Variant) (s : State) :
    (putVariant v s).chkRejectMask = s.chkRejectMask := rfl
@[simp] theorem putVariant_sbMax (v : Variant) (s : State) : (putVariant v s).sbMax = s.sbMax := rfl
@[simp] theorem putVariant_num (v : Variant) (s : State) : (putVariant v s).num = s.num := rfl
@[simp] theorem putVariant_csumOut (v : Variant) (s : State) :
    (putVariant v s).csumOut = s.csumOut := rfl
@[simp] theorem putVariant_routeOut (v : Variant) (s : State) :
    (putVariant v s).routeOut = s.routeOut := rfl
@[simp] theorem putVariant_syncOut (v : Variant) (s : State) :
    (putVariant v s).syncOut = s.syncOut := rfl
@[simp] theorem putVariant_scanOut (v : Variant) (s : State) :
    (putVariant v s).scanOut = s.scanOut := rfl
@[simp] theorem putVariant_freeCtr (v : Variant) (s : State) :
    (putVariant v s).freeCtr = s.freeCtr := rfl
@[simp] theorem putVariant_host (v : Variant) (s : State) : (putVariant v s).host = s.host := rfl

/-! The body of a structure-A packet. -/

@[simp] theorem putBodyA_fault (a : StructureA) (s : State) : (putBodyA a s).fault = s.fault := rfl
@[simp] theorem putBodyA_status (a : StructureA) (s : State) :
    (putBodyA a s).status = s.status := rfl
@[simp] theorem putBodyA_scanPos (a : StructureA) (s : State) :
    (putBodyA a s).scanPos = s.scanPos := rfl
@[simp] theorem putBodyA_outq (a : StructureA) (s : State) : (putBodyA a s).outq = s.outq := rfl
@[simp] theorem putBodyA_cmdOp (a : StructureA) (s : State) : (putBodyA a s).cmdOp = s.cmdOp := rfl
@[simp] theorem putBodyA_fx (a : StructureA) (s : State) : (putBodyA a s).fx = s.fx := rfl
@[simp] theorem putBodyA_sc (a : StructureA) (s : State) :
    (putBodyA a s).sc = scOfChannel a.statusChannel := rfl
@[simp] theorem putBodyA_scTagByte (a : StructureA) (s : State) :
    (putBodyA a s).scTagByte = s.scTagByte := rfl
@[simp] theorem putBodyA_sp (a : StructureA) (s : State) : (putBodyA a s).sp = s.sp := rfl
@[simp] theorem putBodyA_pb (a : StructureA) (s : State) : (putBodyA a s).pb = s.pb := rfl
@[simp] theorem putBodyA_pbLen (a : StructureA) (s : State) : (putBodyA a s).pbLen = s.pbLen := rfl
@[simp] theorem putBodyA_sb (a : StructureA) (s : State) : (putBodyA a s).sb = s.sb := rfl
@[simp] theorem putBodyA_sbLen (a : StructureA) (s : State) : (putBodyA a s).sbLen = s.sbLen := rfl
@[simp] theorem putBodyA_navPolicy (a : StructureA) (s : State) :
    (putBodyA a s).navPolicy = s.navPolicy := rfl
@[simp] theorem putBodyA_chkRejectMask (a : StructureA) (s : State) :
    (putBodyA a s).chkRejectMask = s.chkRejectMask := rfl
@[simp] theorem putBodyA_sbMax (a : StructureA) (s : State) : (putBodyA a s).sbMax = s.sbMax := rfl
@[simp] theorem putBodyA_num (a : StructureA) (s : State) : (putBodyA a s).num = s.num := rfl
@[simp] theorem putBodyA_csumOut (a : StructureA) (s : State) :
    (putBodyA a s).csumOut = s.csumOut := rfl
@[simp] theorem putBodyA_routeOut (a : StructureA) (s : State) :
    (putBodyA a s).routeOut = s.routeOut := rfl
@[simp] theorem putBodyA_syncOut (a : StructureA) (s : State) :
    (putBodyA a s).syncOut = s.syncOut := rfl
@[simp] theorem putBodyA_scanOut (a : StructureA) (s : State) :
    (putBodyA a s).scanOut = s.scanOut := rfl
@[simp] theorem putBodyA_freeCtr (a : StructureA) (s : State) :
    (putBodyA a s).freeCtr = s.freeCtr := rfl
@[simp] theorem putBodyA_host (a : StructureA) (s : State) : (putBodyA a s).host = s.host := rfl

/-! A decoded packet. -/

@[simp] theorem putPacket_structureA_pk (a : StructureA) (s : State) :
    (putPacket (.structureA a) s).pk = pkOfA a := rfl
@[simp] theorem putPacket_structureA_sc (a : StructureA) (s : State) :
    (putPacket (.structureA a) s).sc = scOfChannel a.statusChannel := rfl
@[simp] theorem putPacket_structureB_pk (b : StructureB) (s : State) :
    (putPacket (.structureB b) s).pk = pkOfB b := rfl
@[simp] theorem putPacket_structureB_sc (b : StructureB) (s : State) :
    (putPacket (.structureB b) s).sc = ({} : ScRegs) := rfl
@[simp] theorem putPacket_fault (p : Packet) (s : State) : (putPacket p s).fault = s.fault := by
  cases p <;> rfl
@[simp] theorem putPacket_status (p : Packet) (s : State) : (putPacket p s).status = s.status := by
  cases p <;> rfl
@[simp] theorem putPacket_scanPos (p : Packet) (s : State) : (putPacket p s).scanPos = s.scanPos := by
  cases p <;> rfl
@[simp] theorem putPacket_outq (p : Packet) (s : State) : (putPacket p s).outq = s.outq := by
  cases p <;> rfl
@[simp] theorem putPacket_cmdOp (p : Packet) (s : State) : (putPacket p s).cmdOp = s.cmdOp := by
  cases p <;> rfl
@[simp] theorem putPacket_fx (p : Packet) (s : State) : (putPacket p s).fx = s.fx := by
  cases p <;> rfl
@[simp] theorem putPacket_scTagByte (p : Packet) (s : State) : (putPacket p s).scTagByte = s.scTagByte := by
  cases p <;> rfl
@[simp] theorem putPacket_sp (p : Packet) (s : State) : (putPacket p s).sp = s.sp := by
  cases p <;> rfl
@[simp] theorem putPacket_pb (p : Packet) (s : State) : (putPacket p s).pb = s.pb := by
  cases p <;> rfl
@[simp] theorem putPacket_pbLen (p : Packet) (s : State) : (putPacket p s).pbLen = s.pbLen := by
  cases p <;> rfl
@[simp] theorem putPacket_sb (p : Packet) (s : State) : (putPacket p s).sb = s.sb := by
  cases p <;> rfl
@[simp] theorem putPacket_sbLen (p : Packet) (s : State) : (putPacket p s).sbLen = s.sbLen := by
  cases p <;> rfl
@[simp] theorem putPacket_navPolicy (p : Packet) (s : State) : (putPacket p s).navPolicy = s.navPolicy := by
  cases p <;> rfl
@[simp] theorem putPacket_chkRejectMask (p : Packet) (s : State) : (putPacket p s).chkRejectMask = s.chkRejectMask := by
  cases p <;> rfl
@[simp] theorem putPacket_sbMax (p : Packet) (s : State) : (putPacket p s).sbMax = s.sbMax := by
  cases p <;> rfl
@[simp] theorem putPacket_num (p : Packet) (s : State) : (putPacket p s).num = s.num := by
  cases p <;> rfl
@[simp] theorem putPacket_csumOut (p : Packet) (s : State) : (putPacket p s).csumOut = s.csumOut := by
  cases p <;> rfl
@[simp] theorem putPacket_routeOut (p : Packet) (s : State) : (putPacket p s).routeOut = s.routeOut := by
  cases p <;> rfl
@[simp] theorem putPacket_syncOut (p : Packet) (s : State) : (putPacket p s).syncOut = s.syncOut := by
  cases p <;> rfl
@[simp] theorem putPacket_scanOut (p : Packet) (s : State) : (putPacket p s).scanOut = s.scanOut := by
  cases p <;> rfl
@[simp] theorem putPacket_freeCtr (p : Packet) (s : State) : (putPacket p s).freeCtr = s.freeCtr := by
  cases p <;> rfl
@[simp] theorem putPacket_host (p : Packet) (s : State) : (putPacket p s).host = s.host := by
  cases p <;> rfl

/-! A scan. -/

@[simp] theorem putScan_fault (r : ScanOutcome × Nat × List Packet) (s : State) :
    (putScan r s).fault = s.fault := rfl
@[simp] theorem putScan_status (r : ScanOutcome × Nat × List Packet) (s : State) :
    (putScan r s).status = s.status := rfl
@[simp] theorem putScan_scanPos (r : ScanOutcome × Nat × List Packet) (s : State) :
    (putScan r s).scanPos = r.2.1 := rfl
@[simp] theorem putScan_outq (r : ScanOutcome × Nat × List Packet) (s : State) :
    (putScan r s).outq = r.2.2 := rfl
@[simp] theorem putScan_cmdOp (r : ScanOutcome × Nat × List Packet) (s : State) :
    (putScan r s).cmdOp = s.cmdOp := rfl
@[simp] theorem putScan_fx (r : ScanOutcome × Nat × List Packet) (s : State) :
    (putScan r s).fx = s.fx := rfl
@[simp] theorem putScan_pk (r : ScanOutcome × Nat × List Packet) (s : State) :
    (putScan r s).pk = s.pk := rfl
@[simp] theorem putScan_sc (r : ScanOutcome × Nat × List Packet) (s : State) :
    (putScan r s).sc = s.sc := rfl
@[simp] theorem putScan_scTagByte (r : ScanOutcome × Nat × List Packet) (s : State) :
    (putScan r s).scTagByte = s.scTagByte := rfl
@[simp] theorem putScan_sp (r : ScanOutcome × Nat × List Packet) (s : State) :
    (putScan r s).sp = s.sp := rfl
@[simp] theorem putScan_pb (r : ScanOutcome × Nat × List Packet) (s : State) :
    (putScan r s).pb = s.pb := rfl
@[simp] theorem putScan_pbLen (r : ScanOutcome × Nat × List Packet) (s : State) :
    (putScan r s).pbLen = s.pbLen := rfl
@[simp] theorem putScan_sb (r : ScanOutcome × Nat × List Packet) (s : State) :
    (putScan r s).sb = s.sb := rfl
@[simp] theorem putScan_sbLen (r : ScanOutcome × Nat × List Packet) (s : State) :
    (putScan r s).sbLen = s.sbLen := rfl
@[simp] theorem putScan_navPolicy (r : ScanOutcome × Nat × List Packet) (s : State) :
    (putScan r s).navPolicy = s.navPolicy := rfl
@[simp] theorem putScan_chkRejectMask (r : ScanOutcome × Nat × List Packet) (s : State) :
    (putScan r s).chkRejectMask = s.chkRejectMask := rfl
@[simp] theorem putScan_sbMax (r : ScanOutcome × Nat × List Packet) (s : State) :
    (putScan r s).sbMax = s.sbMax := rfl
@[simp] theorem putScan_num (r : ScanOutcome × Nat × List Packet) (s : State) :
    (putScan r s).num = s.num := rfl
@[simp] theorem putScan_csumOut (r : ScanOutcome × Nat × List Packet) (s : State) :
    (putScan r s).csumOut = s.csumOut := rfl
@[simp] theorem putScan_routeOut (r : ScanOutcome × Nat × List Packet) (s : State) :
    (putScan r s).routeOut = s.routeOut := rfl
@[simp] theorem putScan_syncOut (r : ScanOutcome × Nat × List Packet) (s : State) :
    (putScan r s).syncOut = s.syncOut := rfl
@[simp] theorem putScan_scanOut (r : ScanOutcome × Nat × List Packet) (s : State) :
    (putScan r s).scanOut = some r.1 := rfl
@[simp] theorem putScan_freeCtr (r : ScanOutcome × Nat × List Packet) (s : State) :
    (putScan r s).freeCtr = s.freeCtr := rfl
@[simp] theorem putScan_host (r : ScanOutcome × Nat × List Packet) (s : State) :
    (putScan r s).host = s.host := rfl

end Sys2Proof.Machine
end

