-- ==== Sys2Proof/Laws/Ops.lean ====
section
/-! SUPPORT. What each shared operation can do, said once: the gate every operation runs through, the
reading of the operands, the reading back of a decoded record, the host's writes. -/

namespace Sys2Proof.Machine

/-! The gate. -/

theorem runOp_of_fault {s : State} (h : s.fault = true) (r : Option State) :
    runOp s r = .next (endFaulted s) := by simp [runOp, h]

theorem runOp_some {s : State} (h : s.fault = false) (t : State) : runOp s (some t) = .next t := by
  simp [runOp, h]

theorem runOp_none {s : State} (h : s.fault = false) :
    runOp s none = .next (raise .preconditionViolation s) := by simp [runOp, h]

/-- Everything an operation can answer. -/
theorem runOp_next {s t : State} {r : Option State} (h : runOp s r = .next t) :
    (s.fault = true ∧ t = endFaulted s) ∨ (s.fault = false ∧ r = some t) ∨
      (s.fault = false ∧ r = none ∧ t = raise .preconditionViolation s) := by
  cases hf : s.fault with
  | true => rw [runOp_of_fault hf] at h; cases h; exact .inl ⟨rfl, rfl⟩
  | false =>
    cases r with
    | some u => rw [runOp_some hf] at h; cases h; exact .inr (.inl ⟨rfl, rfl⟩)
    | none => rw [runOp_none hf] at h; cases h; exact .inr (.inr ⟨rfl, rfl, rfl⟩)

/-- An operation that runs through the gate never stops. -/
theorem runOp_completes (s : State) (r : Option State) : ∃ t, runOp s r = .next t := by
  cases hf : s.fault with
  | true => exact ⟨_, runOp_of_fault hf r⟩
  | false =>
    cases r with
    | some u => exact ⟨_, runOp_some hf u⟩
    | none => exact ⟨_, runOp_none hf⟩

/-- What a `PreconditionViolation` leaves, in the words of the statements. -/
theorem raise_preconditionViolation_eq (s : State) : raise .preconditionViolation s = s.violated := rfl

/-! The operands. -/

theorem pbOperand_eq_some (s : State) (b : List Byte) :
    pbOperand s = some b ↔ b.length = 72 ∧ ∀ k, k < 72 → s.pb.read k = b[k]? := by
  simpa [pbOperand, pktLen] using readRange_eq_some s.pb 0 72 b

theorem pbOperand_eq_none (s : State) : pbOperand s = none ↔ ∃ k, k < 72 ∧ s.pb.read k = none := by
  simpa [pbOperand, pktLen] using readRange_eq_none s.pb 0 72

/-- The operands of `A.DEC` are the bytes at offsets 1 to 70, whatever offsets 0 and 71 hold. -/
theorem bodyOperand_eq_some (s : State) (b : List Byte) :
    bodyOperand s = some b ↔
      b.length = 71 ∧ b[0]? = some 0 ∧ ∀ k, 1 ≤ k → k ≤ 70 → s.pb.read k = b[k]? := by
  simp only [bodyOperand, Option.map_eq_some_iff, readRange_eq_some]
  constructor
  · rintro ⟨body, ⟨hl, hr⟩, rfl⟩
    refine ⟨by simp [hl], rfl, fun k h1 h2 => ?_⟩
    obtain ⟨j, rfl⟩ : ∃ j, k = 1 + j := ⟨k - 1, by omega⟩
    rw [hr j (by omega), Nat.add_comm 1 j, List.getElem?_cons_succ]
  · rintro ⟨hl, h0, hr⟩
    cases b with
    | nil => simp at hl
    | cons x body =>
      have hx : x = 0 := by simpa using h0
      subst hx
      refine ⟨body, ⟨by simpa using hl, fun k hk => ?_⟩, rfl⟩
      rw [hr (1 + k) (by omega) (by omega), Nat.add_comm 1 k, List.getElem?_cons_succ]

theorem bodyOperand_eq_none (s : State) :
    bodyOperand s = none ↔ ∃ k, 1 ≤ k ∧ k ≤ 70 ∧ s.pb.read k = none := by
  simp only [bodyOperand, Option.map_eq_none_iff, readRange_eq_none]
  constructor
  · rintro ⟨k, hk, h⟩
    exact ⟨1 + k, by omega, by omega, h⟩
  · rintro ⟨k, h1, h2, h⟩
    exact ⟨k - 1, by omega, by rwa [Nat.add_sub_cancel' h1]⟩

theorem spOperand_eq_some (s : State) (b : List Byte) :
    spOperand s = some b ↔ b.length = 8 ∧ ∀ k, k < 8 → s.sp.read k = b[k]? := by
  simpa [spOperand, payLen] using readRange_eq_some s.sp 0 8 b

theorem spOperand_eq_none (s : State) : spOperand s = none ↔ ∃ k, k < 8 ∧ s.sp.read k = none := by
  simpa [spOperand, payLen] using readRange_eq_none s.sp 0 8

theorem sbOperand_eq_some (s : State) (b : List Byte) :
    sbOperand s = some b ↔
      s.sbLen = some b.length ∧ ∀ k, k < b.length → s.sb.read k = b[k]? := by
  rw [sbOperand]
  cases s.sbLen with
  | none => simp
  | some n =>
    have h := readRange_eq_some s.sb 0 n b
    simp only [Nat.zero_add] at h
    simp only [h, Option.some.injEq]
    constructor
    · rintro ⟨rfl, hk⟩; exact ⟨rfl, hk⟩
    · rintro ⟨rfl, hk⟩; exact ⟨rfl, hk⟩

theorem sbOperand_eq_none (s : State) :
    sbOperand s = none ↔ s.sbLen = none ∨ ∃ n, s.sbLen = some n ∧ ∃ k, k < n ∧ s.sb.read k = none := by
  rw [sbOperand]
  cases s.sbLen with
  | none => simp
  | some n => simpa using readRange_eq_none s.sb 0 n

/-- The registers a decode leaves hold the variant it found. -/
theorem variantOperand_scFields (v : Variant) (p : Option Bool) (t : Option (BitVec 4)) :
    variantOperand { scFields v with present := p, tag := t } v.tag = some v := by
  cases v <;> rfl

theorem channelOperand_scOfChannel (c : Option Variant) : channelOperand (scOfChannel c) = some c := by
  cases c with
  | none => rfl
  | some v => simp [channelOperand, scOfChannel, variantOperand_scFields]

/-- The registers a decode of a structure-A packet leaves hold its record. -/
theorem structureAOperand_pkOfA (a : StructureA) :
    structureAOperand (pkOfA a) (scOfChannel a.statusChannel) = some a := by
  simp [structureAOperand, pkOfA, channelOperand_scOfChannel]

/-- What an encode of a structure-A record reads: every field's register, and the status channel. -/
theorem structureAOperand_eq_some (r : PkRegs) (sc : ScRegs) (a : StructureA) :
    structureAOperand r sc = some a ↔
      r.navigationStatus = some a.navigationStatus ∧
      r.time = some a.time ∧
      r.accelerationX = some a.accelerationX ∧
      r.accelerationY = some a.accelerationY ∧
      r.accelerationZ = some a.accelerationZ ∧
      r.angularRateX = some a.angularRateX ∧
      r.angularRateY = some a.angularRateY ∧
      r.angularRateZ = some a.angularRateZ ∧
      r.latitude = some a.latitude ∧
      r.longitude = some a.longitude ∧
      r.altitude = some a.altitude ∧
      r.velocityNorth = some a.velocityNorth ∧
      r.velocityEast = some a.velocityEast ∧
      r.velocityDown = some a.velocityDown ∧
      r.heading = some a.heading ∧
      r.pitch = some a.pitch ∧
      r.roll = some a.roll ∧
      channelOperand sc = some a.statusChannel ∧
      a.checksum1Valid = r.checksum1Valid.getD false ∧
      a.checksum2Valid = r.checksum2Valid.getD false ∧
      a.checksum3Valid = r.checksum3Valid.getD false := by
  obtain ⟨v0, v1, v2, v3, v4, v5, v6, v7, v8, v9, v10, v11,
    v12, v13, v14, v15, v16, v17, v18, v19, v20⟩ := r
  simp only [structureAOperand]
  constructor
  · intro h
    rcases v1 with _ | v1
    · cases h
    rcases v2 with _ | v2
    · cases h
    rcases v3 with _ | v3
    · cases h
    rcases v4 with _ | v4
    · cases h
    rcases v5 with _ | v5
    · cases h
    rcases v6 with _ | v6
    · cases h
    rcases v7 with _ | v7
    · cases h
    rcases v8 with _ | v8
    · cases h
    rcases v10 with _ | v10
    · cases h
    rcases v11 with _ | v11
    · cases h
    rcases v12 with _ | v12
    · cases h
    rcases v13 with _ | v13
    · cases h
    rcases v14 with _ | v14
    · cases h
    rcases v15 with _ | v15
    · cases h
    rcases v16 with _ | v16
    · cases h
    rcases v17 with _ | v17
    · cases h
    rcases v18 with _ | v18
    · cases h
    rcases hc : channelOperand sc with _ | c
    · rw [hc] at h; cases h
    · rw [hc] at h; cases h
      exact ⟨rfl, rfl, rfl, rfl, rfl, rfl, rfl, rfl, rfl, rfl, rfl, rfl, rfl, rfl, rfl, rfl, rfl, rfl, rfl, rfl, rfl⟩
  · rintro ⟨h0, h1, h2, h3, h4, h5, h6, h7, h8, h9, h10, h11, h12, h13, h14, h15, h16, h17, c1, c2, c3⟩
    subst h0 h1 h2 h3 h4 h5 h6 h7 h8 h9 h10 h11 h12 h13 h14 h15 h16
    rw [h17]
    obtain ⟨_, _, _, _, _, _, _, _, _, _, _, _, _, _, _, _, _, _, _, _, _⟩ := a
    subst c1 c2 c3
    rfl

theorem packetOperand_putPacket_structureA (a : StructureA) (s : State) :
    packetOperand (putPacket (.structureA a) s).pk (putPacket (.structureA a) s).sc =
      some (.structureA a) := by
  have h : (pkOfA a).kind = some .A := rfl
  simp [packetOperand, h, structureAOperand_pkOfA]

theorem packetOperand_putPacket_structureB (b : StructureB) (s : State) :
    packetOperand (putPacket (.structureB b) s).pk (putPacket (.structureB b) s).sc =
      some (.structureB b) := rfl

/-! The host's writes. -/

/-- What no write of the host changes. -/
theorem hostWrite_keeps (w : HostWrite) (s : State) :
    (hostWrite w s).fault = s.fault ∧ (hostWrite w s).status = s.status ∧
      (hostWrite w s).scanPos = s.scanPos ∧ (hostWrite w s).outq = s.outq ∧
      (hostWrite w s).cmdOp = s.cmdOp ∧ (hostWrite w s).navPolicy = s.navPolicy ∧
      (hostWrite w s).chkRejectMask = s.chkRejectMask ∧ (hostWrite w s).sbMax = s.sbMax ∧
      (hostWrite w s).num = s.num ∧ (hostWrite w s).freeCtr = s.freeCtr ∧
      (hostWrite w s).host = s.host := by
  cases w <;> exact ⟨rfl, rfl, rfl, rfl, rfl, rfl, rfl, rfl, rfl, rfl, rfl⟩

/-- Each buffer after a write of the host is the one before, or made of bytes inside its space. -/
theorem hostWrite_buffers (w : HostWrite) (s : State) :
    ((hostWrite w s).sp = s.sp ∨
      ∃ b : List Byte, b.length ≤ payLen ∧ (hostWrite w s).sp = Memory.ofBytes b) ∧
    ((hostWrite w s).pb = s.pb ∨
      ∃ b : List Byte, b.length ≤ pktLen ∧ (hostWrite w s).pb = Memory.ofBytes b) ∧
    ((hostWrite w s).sb = s.sb ∨ ∃ b : List Byte, (hostWrite w s).sb = Memory.ofBytes b) := by
  cases w with
  | sp b => exact ⟨.inr ⟨b.take payLen, by simp, rfl⟩, .inl rfl, .inl rfl⟩
  | pb b => exact ⟨.inl rfl, .inr ⟨b.take pktLen, by simp, rfl⟩, .inl rfl⟩
  | sb b => exact ⟨.inl rfl, .inl rfl, .inr ⟨b, rfl⟩⟩
  | fx r => exact ⟨.inl rfl, .inl rfl, .inl rfl⟩
  | pk r => exact ⟨.inl rfl, .inl rfl, .inl rfl⟩
  | sc r => exact ⟨.inl rfl, .inl rfl, .inl rfl⟩
  | scTagByte b => exact ⟨.inl rfl, .inl rfl, .inl rfl⟩
  | pbLen n => exact ⟨.inl rfl, .inl rfl, .inl rfl⟩
  | sbLen n => exact ⟨.inl rfl, .inl rfl, .inl rfl⟩

end Sys2Proof.Machine
end

