-- ==== Sys2Proof/Laws/Exec.lean ====
section
/-! SUPPORT. What any operation can do to the state, said once: the gate's three answers, and what the
effect of an operation leaves alone. -/

namespace Sys2Proof.Machine

/-! The bytes an encode writes. -/

@[simp] theorem length_pack24 (n : I32) : (pack24 n).length = 3 := rfl

@[simp] theorem length_encField (num : NumRec) (free : I32) (v s : F32) :
    (encField num free v s).length = 3 := rfl

@[simp] theorem length_payloadOf (v : Variant) : (payloadOf v).length = 8 := by cases v <;> rfl

@[simp] theorem length_channelPayload (c : Option Variant) : (channelPayload c).length = 8 := by
  cases c with
  | none => rfl
  | some v => exact length_payloadOf v

@[simp] theorem length_batchA (num : NumRec) (free : Nat → I32) (a : StructureA) :
    (batchA num free a).length = 21 := rfl

@[simp] theorem length_batchB (num : NumRec) (free : Nat → I32) (a : StructureA) :
    (batchB num free a).length = 38 := rfl

@[simp] theorem length_bodyA (num : NumRec) (free : Nat → I32) (a : StructureA) :
    (bodyA num free a).length = 70 := by simp [bodyA]

@[simp] theorem length_bodyB (nav : Byte) : (bodyB nav).length = 70 := rfl

@[simp] theorem length_bodyOf (num : NumRec) (free : Nat → I32) (p : Packet) :
    (bodyOf num free p).length = 70 := by cases p <;> simp [bodyOf]

@[simp] theorem length_pktEncode (num : NumRec) (free : Nat → I32) (p : Packet) :
    (pktEncode num free p).length = 72 := by simp [pktEncode]

/-! The frame of every operation. -/

/-- What an operation that has its effect leaves alone, and what it can do to the rest. -/
structure Effect (s t : State) : Prop where
  fault : t.fault = s.fault
  cmdOp : t.cmdOp = s.cmdOp
  pbLen : t.pbLen = s.pbLen
  sb : t.sb = s.sb
  sbLen : t.sbLen = s.sbLen
  navPolicy : t.navPolicy = s.navPolicy
  chkRejectMask : t.chkRejectMask = s.chkRejectMask
  sbMax : t.sbMax = s.sbMax
  num : t.num = s.num
  host : t.host = s.host
  status : t.status = s.status ∨ t.status ∈ [statusOk, statusErrShort, statusErrSync, statusErrNav]
  pb : t.pb = s.pb ∨ ∃ (a : Nat) (bytes : List Byte), a + bytes.length ≤ pktLen ∧
    t.pb = s.pb.writeRange a bytes
  sp : t.sp = s.sp ∨ ∃ bytes : List Byte, bytes.length = payLen ∧ t.sp = s.sp.writeRange 0 bytes

theorem effect_refl (s : State) : Effect s s :=
  ⟨rfl, rfl, rfl, rfl, rfl, rfl, rfl, rfl, rfl, rfl, .inl rfl, .inl rfl, .inl rfl⟩

/-- An effect on the registers alone. -/
theorem effect_regs {s t : State}
    (h0 : t.fault = s.fault := by rfl)
    (h1 : t.cmdOp = s.cmdOp := by rfl)
    (h2 : t.pbLen = s.pbLen := by rfl)
    (h3 : t.sb = s.sb := by rfl)
    (h4 : t.sbLen = s.sbLen := by rfl)
    (h5 : t.navPolicy = s.navPolicy := by rfl)
    (h6 : t.chkRejectMask = s.chkRejectMask := by rfl)
    (h7 : t.sbMax = s.sbMax := by rfl)
    (h8 : t.num = s.num := by rfl)
    (h9 : t.host = s.host := by rfl)
    (h10 : t.status = s.status := by rfl)
    (h11 : t.pb = s.pb := by rfl)
    (h12 : t.sp = s.sp := by rfl) : Effect s t :=
  ⟨h0, h1, h2, h3, h4, h5, h6, h7, h8, h9, .inl h10, .inl h11, .inl h12⟩

theorem effect_complete {s t : State} (h : Effect s t) : Effect s (complete t) :=
  ⟨h.1, h.2, h.3, h.4, h.5, h.6, h.7, h.8, h.9, h.10, .inr (by simp), h.12, h.13⟩

theorem effect_advanceFree {s t : State} (k : Nat) (h : Effect s t) : Effect s (advanceFree k t) :=
  ⟨h.1, h.2, h.3, h.4, h.5, h.6, h.7, h.8, h.9, h.10, h.11, h.12, h.13⟩

/-- The errors but a `PreconditionViolation`. -/
theorem effect_raise {s t : State} (e : Err) (he : e ≠ .preconditionViolation) (h : Effect s t) :
    Effect s (raise e t) := by
  cases e with
  | preconditionViolation => exact absurd rfl he
  | structuralShort =>
    exact ⟨h.1, h.2, h.3, h.4, h.5, h.6, h.7, h.8, h.9, h.10, .inr (by simp), h.12, h.13⟩
  | structuralSync =>
    exact ⟨h.1, h.2, h.3, h.4, h.5, h.6, h.7, h.8, h.9, h.10, .inr (by simp), h.12, h.13⟩
  | unrecognizedNav =>
    exact ⟨h.1, h.2, h.3, h.4, h.5, h.6, h.7, h.8, h.9, h.10, .inr (by simp), h.12, h.13⟩

/-- A decode fails with a data error only. -/
theorem pktDecode_error {num : NumRec} {policy : BitVec 2} {len : Nat} {b : List Byte} {e : Err}
    (h : pktDecode num policy len b = .error e) : e ≠ .preconditionViolation := by
  simp only [pktDecode] at h
  split at h
  · cases h; simp
  · split at h
    · cases h; simp
    · split at h <;> cases h; simp

theorem effect_putPacket (p : Packet) (s : State) : Effect s (putPacket p s) := by
  cases p <;> exact effect_regs

theorem effect_putPayload {bytes : List Byte} (h : bytes.length = 8) (s : State) :
    Effect s (putPayload bytes s) :=
  ⟨rfl, rfl, rfl, rfl, rfl, rfl, rfl, rfl, rfl, rfl, .inl rfl, .inl rfl, .inr ⟨bytes, h, rfl⟩⟩

theorem effect_bodyDecA {s t : State} (h : bodyDecA s = some t) : Effect s t := by
  simp only [bodyDecA, Option.map_eq_some_iff] at h
  obtain ⟨b, -, rfl⟩ := h
  exact effect_regs

theorem effect_putPb (s : State) {a : Nat} {bytes : List Byte} (h : a + bytes.length ≤ 72) :
    Effect s { s with pb := s.pb.writeRange a bytes } :=
  ⟨rfl, rfl, rfl, rfl, rfl, rfl, rfl, rfl, rfl, rfl, .inl rfl, .inr ⟨a, bytes, h, rfl⟩, .inl rfl⟩

/-- Every well-formed operation runs through the gate, with an effect that stays inside the frame. -/
theorem exec_gate (i : Instr) (s : State) (hw : i.wellFormed = true) :
    ∃ r : Option State, exec i s = runOp s r ∧ ∀ t, r = some t → s.fault = false →
      Effect s t ∨ t = raise .preconditionViolation s := by
  cases i with
  | enc24 =>
    refine ⟨_, rfl, fun t h _ => .inl ?_⟩
    split at h <;> cases h
    exact effect_complete effect_regs
  | dec24 =>
    refine ⟨_, rfl, fun t h _ => .inl ?_⟩
    split at h <;> cases h
    exact effect_complete effect_regs
  | pktEnc =>
    refine ⟨_, rfl, fun t h _ => .inl ?_⟩
    obtain ⟨p, -, rfl⟩ := Option.map_eq_some_iff.1 h
    exact effect_complete (effect_advanceFree _ (effect_putPb s (by simp)))
  | pktDec =>
    refine ⟨_, rfl, fun t h _ => .inl ?_⟩
    split at h
    · cases h
    · split at h
      · cases h; exact effect_raise _ (by simp) effect_regs
      · obtain ⟨b, -, rfl⟩ := Option.map_eq_some_iff.1 h
        split
        · exact effect_complete (effect_putPacket _ _)
        · rename_i e he
          exact effect_raise _ (pktDecode_error he) effect_regs
  | scEnc =>
    refine ⟨_, rfl, fun t h _ => .inl ?_⟩
    obtain ⟨c, -, rfl⟩ := Option.map_eq_some_iff.1 h
    exact ⟨rfl, rfl, rfl, rfl, rfl, rfl, rfl, rfl, rfl, rfl, .inr (by simp), .inl rfl,
      .inr ⟨_, length_channelPayload c, rfl⟩⟩
  | scDec =>
    refine ⟨_, rfl, fun t h _ => .inl ?_⟩
    split at h
    · cases h
    · split at h
      · cases h; exact effect_complete effect_regs
      · obtain ⟨b, -, rfl⟩ := Option.map_eq_some_iff.1 h
        exact effect_complete effect_regs
  | scLookup =>
    refine ⟨_, rfl, fun t h _ => .inl ?_⟩
    obtain ⟨c, -, rfl⟩ := Option.map_eq_some_iff.1 h
    split <;> exact effect_complete effect_regs
  | scan =>
    refine ⟨_, rfl, fun t h _ => .inl ?_⟩
    split at h
    · cases h
    · split at h
      · cases h
      · obtain ⟨b, -, rfl⟩ := Option.map_eq_some_iff.1 h
        exact effect_complete effect_regs
  | i24Pack =>
    refine ⟨_, rfl, fun t h _ => .inl ?_⟩
    obtain ⟨c, -, rfl⟩ := Option.map_eq_some_iff.1 h
    exact effect_complete effect_regs
  | i24Unpack =>
    refine ⟨_, rfl, fun t h _ => .inl ?_⟩
    obtain ⟨c, -, rfl⟩ := Option.map_eq_some_iff.1 h
    exact effect_complete effect_regs
  | illegal code =>
    exact ⟨some (raise .preconditionViolation s), rfl, fun t h _ => .inr (by cases h; rfl)⟩
  | bDec => exact ⟨some s, rfl, fun t h _ => .inl (by cases h; exact effect_refl s)⟩
  | aDec nav => exact ⟨_, rfl, fun t h _ => .inl (effect_bodyDecA h)⟩
  | routeOutOfSet nav =>
    refine ⟨_, rfl, fun t h _ => .inl ?_⟩
    split at h
    · cases h; exact effect_raise _ (by simp) effect_regs
    · exact effect_bodyDecA h
    · cases h; exact effect_regs
  | sc0Enc | sc1Enc | sc2Enc | sc3Enc | sc4Enc | sc5Enc | sc6Enc | sc7Enc | sc8Enc | sc9Enc =>
    refine ⟨_, rfl, fun t h _ => .inl ?_⟩
    obtain ⟨c, -, rfl⟩ := Option.map_eq_some_iff.1 h
    exact effect_putPayload rfl _
  | sc0Dec | sc1Dec | sc2Dec | sc3Dec | sc4Dec | sc5Dec | sc6Dec | sc7Dec | sc8Dec | sc9Dec =>
    refine ⟨_, rfl, fun t h _ => .inl ?_⟩
    obtain ⟨c, -, rfl⟩ := Option.map_eq_some_iff.1 h
    exact effect_regs
  | scNoneDec tag =>
    refine ⟨some { s with sc := scOfChannel none }, rfl, fun t h _ => .inl ?_⟩
    cases h
    exact effect_regs
  | scNoneEnc =>
    refine ⟨some _, rfl, fun t h _ => .inl ?_⟩
    cases h
    exact ⟨rfl, rfl, rfl, rfl, rfl, rfl, rfl, rfl, rfl, rfl, .inl rfl, .inl rfl, .inr ⟨_, rfl, rfl⟩⟩
  | csum lo hi =>
    have hr : lo ≤ hi ∧ hi < pktLen := by simpa [Instr.wellFormed] using hw
    refine ⟨_, if_pos hr, fun t h _ => .inl ?_⟩
    obtain ⟨c, -, rfl⟩ := Option.map_eq_some_iff.1 h
    exact effect_regs
  | quant =>
    refine ⟨_, rfl, fun t h _ => .inl ?_⟩
    split at h <;> cases h
    exact effect_regs
  | dequant =>
    refine ⟨_, rfl, fun t h _ => .inl ?_⟩
    split at h <;> cases h
    exact effect_regs
  | route =>
    refine ⟨_, rfl, fun t h _ => .inl ?_⟩
    obtain ⟨c, -, rfl⟩ := Option.map_eq_some_iff.1 h
    exact effect_regs
  | aEnc =>
    refine ⟨_, rfl, fun t h _ => .inl ?_⟩
    obtain ⟨c, -, rfl⟩ := Option.map_eq_some_iff.1 h
    exact effect_advanceFree _ (effect_putPb s (by simp))
  | bEnc =>
    refine ⟨_, rfl, fun t h _ => .inl ?_⟩
    obtain ⟨c, -, rfl⟩ := Option.map_eq_some_iff.1 h
    exact effect_putPb s (by simp)
  | scanInit =>
    refine ⟨_, rfl, fun t h _ => .inl ?_⟩
    split at h
    · cases h
    · split at h <;> cases h
      exact effect_regs
  | scanStep =>
    refine ⟨_, rfl, fun t h _ => .inl ?_⟩
    obtain ⟨c, -, rfl⟩ := Option.map_eq_some_iff.1 h
    exact effect_regs
  | sync site =>
    refine ⟨_, rfl, fun t h _ => .inl ?_⟩
    cases site with
    | envelope =>
      obtain ⟨c, -, rfl⟩ := Option.map_eq_some_iff.1 h
      split
      · exact effect_regs
      · exact effect_raise _ (by simp) effect_regs
    | candidate =>
      obtain ⟨c, -, rfl⟩ := Option.map_eq_some_iff.1 h
      split
      · exact effect_regs
      · split <;> exact effect_regs

/-- The only stop of an operation is a checksum range outside the packet buffer. -/
theorem exec_of_not_wellFormed_csum {lo hi : Nat} (h : ¬ (lo ≤ hi ∧ hi < pktLen)) (s : State) :
    exec (.csum lo hi) s = .fault .outsideBuffer := if_neg h

end Sys2Proof.Machine
end

