-- ==== Sys2Proof/Laws/Int24.lean ====
section
/-! SUPPORT. The integer half of the fixed-point codec as arithmetic (rules R110 to R112, R121). -/

namespace Sys2Proof.Machine

/-- The number that an appended byte makes. -/
theorem toNat_append_byte {w : Nat} (x : BitVec w) (b : Byte) :
    (x ++ b).toNat = 256 * x.toNat + b.toNat := by
  have := b.isLt
  rw [BitVec.toNat_append, ← Nat.shiftLeft_add_eq_or_of_lt this, Nat.shiftLeft_eq]
  omega

/-- A packed byte is a digit of the integer's pattern, base 256. -/
theorem toNat_packByte (n : I32) (k : Nat) : (packByte n k).toNat = n.toNat / 256 ^ k % 256 := by
  simp [packByte, BitVec.extractLsb'_toNat, Nat.shiftRight_eq_div_pow, pow_mul]

/-- The three packed bytes are the low 24 bits. -/
theorem packByte_number (n : I32) :
    (packByte n 0).toNat + 256 * (packByte n 1).toNat + 65536 * (packByte n 2).toNat =
      n.toNat % 2 ^ 24 := by
  simp only [toNat_packByte]
  norm_num
  omega

/-- The bytes at bit positions 8 to 31, as a number. -/
theorem toNat_unpackWord (b0 b1 b2 : Byte) :
    (b2 ++ b1 ++ b0 ++ (0 : Byte) : BitVec 32).toNat =
      256 * (b0.toNat + 256 * b1.toNat + 65536 * b2.toNat) := by
  rw [toNat_append_byte, toNat_append_byte, toNat_append_byte]
  simp
  omega

/-- Three bytes unpack to their number, read as 24-bit two's complement. -/
theorem toInt_unpack24 (b0 b1 b2 : Byte) :
    (unpack24 b0 b1 b2).toInt = signed24 (b0.toNat + 256 * b1.toNat + 65536 * b2.toNat) := by
  have h0 := b0.isLt
  have h1 := b1.isLt
  have h2 := b2.isLt
  have hc := BitVec.toInt_eq_toNat_cond (b2 ++ b1 ++ b0 ++ (0 : Byte) : BitVec 32)
  rw [toNat_unpackWord] at hc
  rw [unpack24, BitVec.toInt_sshiftRight, Int.shiftRight_eq_div_pow, hc, signed24]
  split <;> split <;> omega

theorem unpack24_range (b0 b1 b2 : Byte) :
    -2 ^ 23 ≤ (unpack24 b0 b1 b2).toInt ∧ (unpack24 b0 b1 b2).toInt < 2 ^ 23 := by
  have h0 := b0.isLt
  have h1 := b1.isLt
  have h2 := b2.isLt
  rw [toInt_unpack24, signed24]
  split <;> omega

/-- The low 24 bits of an unpacked integer are the three bytes. -/
theorem toNat_unpack24_mod (b0 b1 b2 : Byte) :
    (unpack24 b0 b1 b2).toNat % 2 ^ 24 = b0.toNat + 256 * b1.toNat + 65536 * b2.toNat := by
  have h0 := b0.isLt
  have h1 := b1.isLt
  have h2 := b2.isLt
  have h := toInt_unpack24 b0 b1 b2
  have hc := BitVec.toInt_eq_toNat_cond (unpack24 b0 b1 b2)
  rw [signed24] at h
  split at h <;> split at hc <;> omega

/-- Two bytes are equal where their numbers are. -/
theorem byte_eq_of_digits {n : I32} {k : Nat} {b : Byte} (h : n.toNat / 256 ^ k % 256 = b.toNat) :
    packByte n k = b := BitVec.eq_of_toNat_eq (by rw [toNat_packByte, h])

/-- Packing an unpacked integer gives the bytes back. -/
theorem packByte_unpack24 (b0 b1 b2 : Byte) :
    packByte (unpack24 b0 b1 b2) 0 = b0 ∧ packByte (unpack24 b0 b1 b2) 1 = b1 ∧
      packByte (unpack24 b0 b1 b2) 2 = b2 := by
  have h0 := b0.isLt
  have h1 := b1.isLt
  have h2 := b2.isLt
  have h := toNat_unpack24_mod b0 b1 b2
  refine ⟨byte_eq_of_digits ?_, byte_eq_of_digits ?_, byte_eq_of_digits ?_⟩ <;> norm_num <;> omega

/-- Unpacking the packed bytes of an integer gives its low 24 bits, sign-extended. -/
theorem toInt_unpack24_packByte (n : I32) :
    (unpack24 (packByte n 0) (packByte n 1) (packByte n 2)).toInt = signed24 (n.toNat % 2 ^ 24) := by
  rw [toInt_unpack24, packByte_number]

/-- The sign extension of 24 bits, as a pattern. -/
theorem unpack24_packByte (n : I32) :
    unpack24 (packByte n 0) (packByte n 1) (packByte n 2) =
      BitVec.ofInt 32 (signed24 (n.toNat % 2 ^ 24)) := by
  rw [← toInt_unpack24_packByte, BitVec.ofInt_toInt]

end Sys2Proof.Machine
end

