-- ==== Sys2Proof/Laws/Numerics.lean ====
section
/-! SUPPORT. Binary32 patterns and the rounding of the reference numerics; the reference numerics have the
properties every numerics record must have (rule R119). -/

namespace Sys2Proof.Machine

/-! Fields of a pattern. -/

theorem f32Exp_lt (x : F32) : f32Exp x < 256 := Nat.mod_lt _ (by norm_num)

theorem f32Frac_lt (x : F32) : f32Frac x < 2 ^ 23 := Nat.mod_lt _ (by norm_num)

/-- The 31 bits below the sign are the exponent and the fraction. -/
theorem toNat_mod_eq (x : F32) : x.toNat % 2 ^ 31 = f32Exp x * 2 ^ 23 + f32Frac x := by
  have := x.isLt
  simp only [f32Exp, f32Frac]
  omega

theorem f32Neg_iff (x : F32) : f32Neg x = true ↔ 2 ^ 31 ≤ x.toNat := by
  have h := x.isLt
  simp only [f32Neg, BitVec.getLsbD, Nat.testBit_eq_decide_div_mod_eq, decide_eq_true_eq]
  omega

/-- A pattern is put together from its sign and the rest. -/
theorem f32Pack_self (x : F32) : f32Pack (f32Neg x) (x.toNat % 2 ^ 31) = x := by
  apply BitVec.eq_of_toNat_eq
  have h := x.isLt
  have hn := f32Neg_iff x
  cases hs : f32Neg x with
  | true =>
    have := hn.1 hs
    simp only [f32Pack, if_true, BitVec.toNat_ofNat]
    omega
  | false =>
    have : ¬ 2 ^ 31 ≤ x.toNat := fun hc => by rw [hn.2 hc] at hs; cases hs
    simp only [f32Pack, Bool.false_eq_true, if_false, BitVec.toNat_ofNat]
    omega

theorem toNat_f32Pack (neg : Bool) {m : Nat} (h : m < 2 ^ 31) :
    (f32Pack neg m).toNat = (if neg then 2 ^ 31 else 0) + m := by
  simp only [f32Pack, BitVec.toNat_ofNat]
  split <;> omega

theorem f32Neg_f32Pack (neg : Bool) {m : Nat} (h : m < 2 ^ 31) : f32Neg (f32Pack neg m) = neg := by
  have := f32Neg_iff (f32Pack neg m)
  rw [toNat_f32Pack neg h] at this
  cases neg with
  | true => exact this.2 (by simp)
  | false =>
    cases hs : f32Neg (f32Pack false m) with
    | false => rfl
    | true => have := this.1 hs; simp at this; omega

theorem f32Exp_f32Pack (neg : Bool) {m : Nat} (h : m < 2 ^ 31) : f32Exp (f32Pack neg m) = m / 2 ^ 23 := by
  rw [f32Exp, toNat_f32Pack neg h]
  split <;> omega

theorem f32Frac_f32Pack (neg : Bool) {m : Nat} (h : m < 2 ^ 31) :
    f32Frac (f32Pack neg m) = m % 2 ^ 23 := by
  rw [f32Frac, toNat_f32Pack neg h]
  split <;> omega

theorem f32IsFinite_iff (x : F32) : f32IsFinite x = true ↔ f32Exp x ≠ 255 := by simp [f32IsFinite]

theorem not_nan_of_finite {x : F32} (h : f32IsFinite x = true) : f32IsNaN x = false := by
  simp [f32IsNaN, (f32IsFinite_iff x).1 h]

theorem not_inf_of_finite {x : F32} (h : f32IsFinite x = true) : f32IsInf x = false := by
  simp [f32IsInf, (f32IsFinite_iff x).1 h]

/-- The value of a finite pattern is its signed magnitude. -/
theorem f32Val_eq (x : F32) :
    f32Val x = (if f32Neg x then -1 else 1) * ((f32Mag x : ℚ) / 2 ^ 149) := rfl

theorem f32Val_eq_zero (x : F32) : f32Val x = 0 ↔ f32Mag x = 0 := by
  rw [f32Val_eq, mul_eq_zero, div_eq_zero_iff, Nat.cast_eq_zero]
  have h1 : (if f32Neg x = true then (-1 : ℚ) else 1) ≠ 0 := by split <;> norm_num
  have h2 : (2 ^ 149 : ℚ) ≠ 0 := by positivity
  simp [h1]

/-- `QUANT` of finite operands with a scale that is not zero is R113's formula. -/
theorem quantOf_of_finite (num : NumRec) {v s : F32} (hv : f32IsFinite v = true)
    (hs : f32IsFinite s = true) (h0 : f32Val s ≠ 0) : quantOf num v s = num.rint (num.div v s) := by
  have : f32Mag s ≠ 0 := mt (f32Val_eq_zero s).2 h0
  simp [quantOf, hv, hs, this]

/-- `QUANT` of any other operands is `OUT` (R120, log entry 25). -/
theorem quantOf_eq_none (num : NumRec) {v s : F32}
    (h : f32IsFinite v = false ∨ f32IsFinite s = false ∨ f32Val s = 0) : quantOf num v s = none := by
  rcases h with h | h | h
  · simp [quantOf, h]
  · simp [quantOf, h]
  · simp [quantOf, (f32Val_eq_zero s).1 h]

/-! Rounding. -/

theorem rne_mul (n d : Nat) {c : Nat} (hc : 0 < c) : rne (n * c) (d * c) = rne n d := by
  have h1 : n * c / (d * c) = n / d := Nat.mul_div_mul_right n d hc
  have h2 : n * c % (d * c) = n % d * c := Nat.mul_mod_mul_right c n d
  have h3 : ∀ a b : Nat, a * c < b * c ↔ a < b := fun a b => Nat.mul_lt_mul_right hc
  simp only [rne, h1, h2, ← mul_assoc, h3]

theorem rne_exact (q : Nat) {d : Nat} (hd : 0 < d) : rne (q * d) d = q := by
  have h1 : q * d / d = q := Nat.mul_div_cancel q hd
  simp [rne, h1, hd]

/-- The rounded quotient is the floor or the number after it. -/
theorem rne_bounds (n d : Nat) : n / d ≤ rne n d ∧ rne n d ≤ n / d + 1 := by
  simp only [rne]
  split_ifs <;> omega

theorem roundMag_mul (n d : Nat) {c : Nat} (hc : 0 < c) : roundMag (n * c) (d * c) = roundMag n d := by
  have h1 : n * c / (d * c) = n / d := Nat.mul_div_mul_right n d hc
  simp only [roundMag, roundShift, h1]
  rw [show d * c * 2 ^ (Nat.log2 (n / d) - 23) = d * 2 ^ (Nat.log2 (n / d) - 23) * c by ring,
    rne_mul _ _ hc]

theorem log2_eq_of_bounds {n k : Nat} (h1 : 2 ^ k ≤ n) (h2 : n < 2 ^ (k + 1)) : Nat.log2 n = k := by
  have hn : n ≠ 0 := by have := Nat.pos_of_ne_zero (pow_ne_zero k (two_ne_zero)); omega
  exact le_antisymm (Nat.lt_succ_iff.1 ((Nat.log2_lt hn).2 h2)) ((Nat.le_log2 hn).2 h1)

theorem log2_small {n : Nat} (h : n < 2 ^ 24) : Nat.log2 n - 23 = 0 := by
  rcases Nat.eq_zero_or_pos n with rfl | hn
  · decide
  · have := (Nat.log2_lt (n := n) (k := 24) hn.ne').2 h; omega

/-- A magnitude with a 24-bit significand at a larger exponent rounds to itself. -/
theorem roundMag_exact {f k : Nat} (h1 : 2 ^ 23 ≤ f) (h2 : f < 2 ^ 24) (hk : k ≤ 253) :
    roundMag (f * 2 ^ k) 1 = k * 2 ^ 23 + f := by
  have hl : Nat.log2 (f * 2 ^ k) = 23 + k := by
    apply log2_eq_of_bounds
    · rw [pow_add]; exact Nat.mul_le_mul_right _ h1
    · rw [show 23 + k + 1 = 24 + k by omega, pow_add]
      exact Nat.mul_lt_mul_of_pos_right h2 (by positivity)
  have hs : roundShift (f * 2 ^ k) 1 = k := by simp [roundShift, hl]
  have hm : k * 2 ^ 23 + f ≤ 255 * 2 ^ 23 := by omega
  simp only [roundMag, hs, one_mul, rne_exact f (show 0 < 2 ^ k by positivity)]
  omega

/-- A subnormal magnitude rounds to itself. -/
theorem roundMag_small {f : Nat} (h : f < 2 ^ 23) : roundMag f 1 = f := by
  have hs : roundShift f 1 = 0 := by simpa [roundShift] using log2_small (show f < 2 ^ 24 by omega)
  have := rne_exact f (show 0 < 1 by norm_num)
  simp only [mul_one] at this
  simp only [roundMag, hs, pow_zero, mul_one, this]
  omega

/-- The magnitude of a finite pattern rounds to that pattern. -/
theorem roundMag_f32Mag {x : F32} (h : f32IsFinite x = true) : roundMag (f32Mag x) 1 = x.toNat % 2 ^ 31 := by
  have he := f32Exp_lt x
  have hf := f32Frac_lt x
  have hx := (f32IsFinite_iff x).1 h
  rw [toNat_mod_eq, f32Mag]
  split
  · rename_i h0; rw [h0, roundMag_small hf]; omega
  · rename_i h0
    rw [roundMag_exact (by omega) (by omega) (by omega)]
    omega

/-- A finite pattern is rebuilt from its sign and its magnitude. -/
theorem f32Pack_roundMag {x : F32} (h : f32IsFinite x = true) :
    f32Pack (f32Neg x) (roundMag (f32Mag x) 1) = x := by
  rw [roundMag_f32Mag h, f32Pack_self]

/-- Rounding a product by a factor of it. -/
theorem roundMag_mul_self (n : Nat) {d : Nat} (hd : 0 < d) : roundMag (n * d) d = roundMag n 1 := by
  have h := roundMag_mul n 1 hd
  rwa [one_mul] at h

/-- What rounding answers is a pattern without a sign. -/
theorem roundMag_le (n d : Nat) : roundMag n d ≤ 255 * 2 ^ 23 := by simp only [roundMag]; omega

/-! The reference numerics. -/

theorem f32Mag_one : f32Mag f32One = 2 ^ 149 := by
  have h1 : f32Exp f32One = 127 := by decide
  have h2 : f32Frac f32One = 0 := by decide
  simp only [f32Mag, h1, h2]; norm_num

theorem f32One_finite : f32IsFinite f32One = true := by decide
theorem f32One_neg : f32Neg f32One = false := by decide

/-- Division by 1.0 is exact. -/
theorem refDiv_one {v : F32} (h : f32IsFinite v = true) : refDiv v f32One = v := by
  have hm := f32Mag_one
  have hp := roundMag_mul_self (f32Mag v) (show 0 < 2 ^ 149 by positivity)
  have h0 : f32Mag f32One ≠ 0 := by rw [hm]; positivity
  simp only [refDiv, not_nan_of_finite h, not_nan_of_finite f32One_finite, not_inf_of_finite h,
    not_inf_of_finite f32One_finite, f32One_neg, Bool.or_self, Bool.false_eq_true, if_false, h0,
    Bool.xor_false]
  rw [hm, hp, f32Pack_roundMag h]

/-- Multiplication by 1.0 is exact. -/
theorem refMul_one {v : F32} (h : f32IsFinite v = true) : refMul v f32One = v := by
  have hm := f32Mag_one
  simp only [refMul, not_nan_of_finite h, not_nan_of_finite f32One_finite, not_inf_of_finite h,
    not_inf_of_finite f32One_finite, f32One_neg, Bool.or_self, Bool.false_eq_true, if_false,
    Bool.xor_false]
  rw [hm, roundMag_mul_self (f32Mag v) (show 0 < 2 ^ 149 by positivity), f32Pack_roundMag h]

/-- The pattern that `roundMag` gives a whole number of at most 24 bits has that magnitude. -/
theorem f32Mag_pack_int (neg : Bool) {a : Nat} (ha : a ≤ 2 ^ 24) :
    roundMag (a * 2 ^ 149) 1 < 255 * 2 ^ 23 ∧
      f32Mag (f32Pack neg (roundMag (a * 2 ^ 149) 1)) = a * 2 ^ 149 := by
  have key : ∀ f k : Nat, 2 ^ 23 ≤ f → f < 2 ^ 24 → k ≤ 253 → a * 2 ^ 149 = f * 2 ^ k →
      roundMag (a * 2 ^ 149) 1 < 255 * 2 ^ 23 ∧
        f32Mag (f32Pack neg (roundMag (a * 2 ^ 149) 1)) = a * 2 ^ 149 := by
    intro f k h1 h2 hk he
    rw [he, roundMag_exact h1 h2 hk]
    have hlt : k * 2 ^ 23 + f < 2 ^ 31 := by omega
    have e1 : (k * 2 ^ 23 + f) / 2 ^ 23 = k + 1 := by omega
    have e2 : (k * 2 ^ 23 + f) % 2 ^ 23 = f - 2 ^ 23 := by omega
    refine ⟨by omega, ?_⟩
    simp only [f32Mag, f32Exp_f32Pack neg hlt, f32Frac_f32Pack neg hlt, e1, e2]
    have e3 : 2 ^ 23 + (f - 2 ^ 23) = f := by omega
    rw [if_neg (by omega), e3]
    simp
  rcases Nat.eq_zero_or_pos a with rfl | hpos
  · have h0 : roundMag (0 * 2 ^ 149) 1 = 0 := by simpa using roundMag_small (f := 0) (by norm_num)
    rw [h0]
    refine ⟨by norm_num, ?_⟩
    cases neg <;> decide
  · rcases Nat.lt_or_ge a (2 ^ 24) with hlt | hge
    · have hL1 : 2 ^ Nat.log2 a ≤ a := Nat.log2_self_le hpos.ne'
      have hL2 : a < 2 ^ (Nat.log2 a + 1) := Nat.lt_log2_self
      have hL : Nat.log2 a < 24 := (Nat.log2_lt hpos.ne').2 hlt
      refine key (a * 2 ^ (23 - Nat.log2 a)) (126 + Nat.log2 a) ?_ ?_ (by omega) ?_
      · calc 2 ^ 23 = 2 ^ Nat.log2 a * 2 ^ (23 - Nat.log2 a) := by rw [← pow_add]; congr 1; omega
          _ ≤ _ := Nat.mul_le_mul_right _ hL1
      · calc a * 2 ^ (23 - Nat.log2 a) < 2 ^ (Nat.log2 a + 1) * 2 ^ (23 - Nat.log2 a) :=
              Nat.mul_lt_mul_of_pos_right hL2 (by positivity)
          _ = 2 ^ 24 := by rw [← pow_add]; congr 1; omega
      · rw [mul_assoc, ← pow_add]; congr 2; omega
    · have ha' : a = 2 ^ 24 := by omega
      refine key (2 ^ 23) 150 (by norm_num) (by norm_num) (by norm_num) ?_
      rw [ha']; norm_num

/-- `i2f` is exact up to 2^24. -/
theorem refI2f_exact {n : I32} (h : n.toInt.natAbs ≤ 2 ^ 24) :
    f32IsFinite (refI2f n) = true ∧ f32Val (refI2f n) = n.toInt := by
  have hk := f32Mag_pack_int (decide (n.toInt < 0)) h
  have hlt : roundMag (n.toInt.natAbs * 2 ^ 149) 1 < 2 ^ 31 := by omega
  simp only [refI2f, if_pos h]
  refine ⟨(f32IsFinite_iff _).2 ?_, ?_⟩
  · rw [f32Exp_f32Pack _ hlt]; omega
  · rw [f32Val_eq, f32Neg_f32Pack _ hlt, hk.2]
    have h2 : ((n.toInt.natAbs * 2 ^ 149 : Nat) : ℚ) / 2 ^ 149 = (n.toInt.natAbs : ℚ) := by
      rw [Nat.cast_mul, mul_div_assoc, Nat.cast_pow, Nat.cast_ofNat, div_self (by positivity), mul_one]
    rw [h2]
    by_cases hneg : n.toInt < 0
    · have : (n.toInt : ℚ) = -(n.toInt.natAbs : ℚ) := by
        have : n.toInt = -(n.toInt.natAbs : Int) := by omega
        rw [this]; push_cast; simp
      rw [this]; simp [hneg]
    · have : (n.toInt : ℚ) = (n.toInt.natAbs : ℚ) := by
        have : n.toInt = (n.toInt.natAbs : Int) := by omega
        rw [this]; push_cast; simp
      rw [this]; simp [hneg]

/-- `rint` of a whole number is that number. -/
theorem refRint_int {v : F32} {k : Int} (hf : f32IsFinite v = true) (hv : f32Val v = k)
    (hk : k.natAbs < 2 ^ 31) : refRint v = some (BitVec.ofInt 32 k) := by
  have hm : f32Mag v = k.natAbs * 2 ^ 149 := by
    have h1 : |f32Val v| = (f32Mag v : ℚ) / 2 ^ 149 := by
      rw [f32Val_eq, abs_mul, abs_of_nonneg (show (0 : ℚ) ≤ (f32Mag v : ℚ) / 2 ^ 149 by positivity)]
      split <;> simp
    rw [hv, ← Int.cast_abs, Int.abs_eq_natAbs] at h1
    have h2 : (f32Mag v : ℚ) = (k.natAbs : ℚ) * 2 ^ 149 := by
      rw [eq_div_iff (by positivity)] at h1
      rw [← h1]; simp
    exact_mod_cast h2
  have hr : roundHalfAway v = k.natAbs := by rw [roundHalfAway, hm]; omega
  have hp : 0 < f32Mag v → (f32Neg v = true ↔ k < 0) := by
    intro hpos
    have hq : (0 : ℚ) < (f32Mag v : ℚ) / 2 ^ 149 := by positivity
    rw [f32Val_eq] at hv
    cases hn : f32Neg v with
    | true =>
      rw [hn] at hv
      have : (k : ℚ) < 0 := by rw [← hv]; simpa using hq
      simpa using (by exact_mod_cast this : k < 0)
    | false =>
      rw [hn] at hv
      have : (0 : ℚ) < k := by rw [← hv]; simpa using hq
      have : (0 : Int) < k := by exact_mod_cast this
      simp; omega
  simp only [refRint, hf, if_true, hr]
  rcases Nat.eq_zero_or_pos (f32Mag v) with h0 | hpos
  · have : k = 0 := by omega
    subst this
    cases f32Neg v <;> simp
  · cases hn : f32Neg v with
    | true =>
      have hk0 := (hp hpos).1 hn
      rw [if_pos rfl, if_pos (by omega), show -(k.natAbs : Int) = k by omega]
    | false =>
      have hk0 : ¬ k < 0 := fun h => by rw [(hp hpos).2 h] at hn; cases hn
      simp only [Bool.false_eq_true, if_false, if_pos hk]
      congr 1
      have : (BitVec.ofInt 32 ((k.natAbs : Nat) : Int)) = BitVec.ofNat 32 k.natAbs :=
        BitVec.ofInt_natCast 32 k.natAbs
      rw [← this, show ((k.natAbs : Nat) : Int) = k by omega]

theorem roundMag_zero (d : Nat) : roundMag 0 d = 0 := by simp [roundMag, roundShift, rne]

/-- Zero over a positive finite scale is a zero, and zero times it is +0.0. -/
theorem refZero {s : F32} (hf : f32IsFinite s = true) (hs : 0 < f32Val s) :
    refDiv 0x00000000 s = 0x00000000 ∧ refDiv 0x80000000 s = 0x80000000 ∧
      refMul 0x00000000 s = 0x00000000 := by
  have hmag : f32Mag s ≠ 0 := by
    intro h; rw [f32Val_eq, h] at hs; simp at hs
  have hneg : f32Neg s = false := by
    cases hn : f32Neg s with
    | false => rfl
    | true =>
      rw [f32Val_eq, hn] at hs
      have : (0 : ℚ) ≤ (f32Mag s : ℚ) / 2 ^ 149 := by positivity
      simp only [if_true] at hs; linarith
  have z1 : f32IsFinite 0x00000000 = true := by decide
  have z2 : f32IsFinite 0x80000000 = true := by decide
  have m1 : f32Mag 0x00000000 = 0 := by decide
  have m2 : f32Mag 0x80000000 = 0 := by decide
  have n1 : f32Neg 0x00000000 = false := by decide
  have n2 : f32Neg 0x80000000 = true := by decide
  have p1 : f32Pack false 0 = 0x00000000 := by decide
  have p2 : f32Pack true 0 = 0x80000000 := by decide
  refine ⟨?_, ?_, ?_⟩
  · simp only [refDiv, not_nan_of_finite z1, not_nan_of_finite hf, not_inf_of_finite z1,
      not_inf_of_finite hf, Bool.or_self, Bool.false_eq_true, if_false, hmag, hneg, m1, n1, zero_mul,
      roundMag_zero, Bool.xor_false, p1]
  · simp only [refDiv, not_nan_of_finite z2, not_nan_of_finite hf, not_inf_of_finite z2,
      not_inf_of_finite hf, Bool.or_self, Bool.false_eq_true, if_false, hmag, hneg, m2, n2, zero_mul,
      roundMag_zero, Bool.xor_false, p2]
  · simp only [refMul, not_nan_of_finite z1, not_nan_of_finite hf, not_inf_of_finite z1,
      not_inf_of_finite hf, Bool.or_self, Bool.false_eq_true, if_false, hneg, m1, n1, zero_mul,
      roundMag_zero, Bool.xor_false, p1]

/-- The reference numerics have P1 to P3 of R119. -/
theorem reference_admissible : (numOf .reference).Admissible where
  div_one v k hf hv hk := by
    show refRint (refDiv v f32One) = _
    rw [refDiv_one hf]; exact refRint_int hf hv hk
  mul_one n h1 h2 := by
    have h := refI2f_exact (n := n) (by omega)
    show f32IsFinite (refMul (refI2f n) f32One) = true ∧ f32Val (refMul (refI2f n) f32One) = _
    rw [refMul_one h.1]; exact h
  zero_scale s hf hs := by
    have h := refZero hf hs
    have hz : refI2f 0 = 0x00000000 := by
      have : (0 : I32).toInt.natAbs = 0 := by decide
      simp only [refI2f, this, zero_mul, roundMag_zero]
      decide
    have r1 : refRint 0x00000000 = some 0 := by decide
    have r2 : refRint 0x80000000 = some 0 := by decide
    show refRint (refDiv _ s) = _ ∧ refRint (refDiv _ s) = _ ∧ refMul (refI2f 0) s = _
    rw [h.1, h.2.1, hz, h.2.2]
    exact ⟨r1, r2, rfl⟩

end Sys2Proof.Machine
end

