-- ==== Sys2Proof/Laws/Packet.lean ====
section
/-! SUPPORT. The bytes of an encoded packet, field by field (rules R71, R72), and what reading them back
gives. -/

namespace Sys2Proof.Machine

/-- A part of a buffer made of parts, found by the lengths of the parts before it. -/
theorem slice_flatten {segs : List (List Byte)} {ls : List Nat} (hl : segs.map List.length = ls)
    (i : Nat) {off n : Nat} {x : List Byte} (hx : segs[i]? = some x) (ho : (ls.take i).sum = off)
    (hn : ls[i]? = some n) : slice segs.flatten off n = x := by
  subst hl ho
  have hlen : x.length = n := by
    rw [List.getElem?_map, hx] at hn
    simpa using hn
  subst hlen
  clear hn
  induction segs generalizing i with
  | nil => simp at hx
  | cons y r ih =>
    cases i with
    | zero =>
      simp only [List.getElem?_cons_zero, Option.some.injEq] at hx
      subst hx
      simp [slice]
    | succ i =>
      have hx' : r[i]? = some x := by simpa using hx
      rw [List.flatten_cons, slice_append_right _ _ _ (by simp)]
      simpa using ih i hx'

/-- One byte from a slice of one. -/
theorem byteAt_of_slice {b : List Byte} {off : Nat} {x : Byte} (h : slice b off 1 = [x]) :
    byteAt b off = x := by simp [byteAt, memRead, h, leNat]

/-- A number from the slice of its bytes. -/
theorem memRead_of_slice {b : List Byte} {off n v : Nat} (h : slice b off n = leBytes n v)
    (hv : v < 256 ^ n) : memRead b off n = v := by
  rw [memRead, h, leNat_leBytes, Nat.mod_eq_of_lt hv]

/-! Structure-A. -/

/-- The parts of an encoded structure-A packet. -/
def segmentsA (num : NumRec) (free : Nat → I32) (a : StructureA) : List (List Byte) :=
  let toNav := batchA num free a
  let toB := toNav ++ [sum8 toNav] ++ batchB num free a
  let body := bodyA num free a
  [[syncByte], leBytes 2 (a.time.toNat % timeMod),
    encField num (free 0) a.accelerationX sAcc, encField num (free 1) a.accelerationY sAcc,
    encField num (free 2) a.accelerationZ sAcc, encField num (free 3) a.angularRateX sAng,
    encField num (free 4) a.angularRateY sAng, encField num (free 5) a.angularRateZ sAng,
    [a.navigationStatus], [sum8 toNav],
    leBytes 8 a.latitude.toNat, leBytes 8 a.longitude.toNat, leBytes 4 a.altitude.toNat,
    encField num (free 6) a.velocityNorth sVel, encField num (free 7) a.velocityEast sVel,
    encField num (free 8) a.velocityDown sVel, encField num (free 9) a.heading sOri,
    encField num (free 10) a.pitch sOri, encField num (free 11) a.roll sOri,
    [sum8 toB], [tagByteOf a.statusChannel], channelPayload a.statusChannel, [sum8 body]]

theorem length_segmentsA (num : NumRec) (free : Nat → I32) (a : StructureA) :
    (segmentsA num free a).map List.length =
      [1, 2, 3, 3, 3, 3, 3, 3, 1, 1, 8, 8, 4, 3, 3, 3, 3, 3, 3, 1, 1, 8, 1] := by
  simp [segmentsA]

theorem pktEncode_structureA (num : NumRec) (free : Nat → I32) (a : StructureA) :
    pktEncode num free (.structureA a) = (segmentsA num free a).flatten := by
  simp [pktEncode, bodyOf, bodyA, batchA, batchB, segmentsA]

section
variable (num : NumRec) (free : Nat → I32) (a : StructureA)

theorem slice_pktEncode_time : slice (pktEncode num free (.structureA a)) 1 2 =
    leBytes 2 (a.time.toNat % timeMod) := by
  rw [pktEncode_structureA]; exact slice_flatten (length_segmentsA ..) 1 rfl rfl rfl

theorem slice_pktEncode_accelerationX : slice (pktEncode num free (.structureA a)) 3 3 =
    encField num (free 0) a.accelerationX sAcc := by
  rw [pktEncode_structureA]; exact slice_flatten (length_segmentsA ..) 2 rfl rfl rfl

theorem slice_pktEncode_accelerationY : slice (pktEncode num free (.structureA a)) 6 3 =
    encField num (free 1) a.accelerationY sAcc := by
  rw [pktEncode_structureA]; exact slice_flatten (length_segmentsA ..) 3 rfl rfl rfl

theorem slice_pktEncode_accelerationZ : slice (pktEncode num free (.structureA a)) 9 3 =
    encField num (free 2) a.accelerationZ sAcc := by
  rw [pktEncode_structureA]; exact slice_flatten (length_segmentsA ..) 4 rfl rfl rfl

theorem slice_pktEncode_angularRateX : slice (pktEncode num free (.structureA a)) 12 3 =
    encField num (free 3) a.angularRateX sAng := by
  rw [pktEncode_structureA]; exact slice_flatten (length_segmentsA ..) 5 rfl rfl rfl

theorem slice_pktEncode_angularRateY : slice (pktEncode num free (.structureA a)) 15 3 =
    encField num (free 4) a.angularRateY sAng := by
  rw [pktEncode_structureA]; exact slice_flatten (length_segmentsA ..) 6 rfl rfl rfl

theorem slice_pktEncode_angularRateZ : slice (pktEncode num free (.structureA a)) 18 3 =
    encField num (free 5) a.angularRateZ sAng := by
  rw [pktEncode_structureA]; exact slice_flatten (length_segmentsA ..) 7 rfl rfl rfl

theorem slice_pktEncode_navigationStatus : slice (pktEncode num free (.structureA a)) 21 1 =
    [a.navigationStatus] := by
  rw [pktEncode_structureA]; exact slice_flatten (length_segmentsA ..) 8 rfl rfl rfl

/-- The first 22 bytes: the sync byte and batch A. -/
theorem slice_pktEncode_batchA :
    slice (pktEncode num free (.structureA a)) 1 21 = batchA num free a := by
  rw [show pktEncode num free (.structureA a) =
    [[syncByte], batchA num free a, [sum8 (batchA num free a)], batchB num free a,
      [sum8 (batchA num free a ++ [sum8 (batchA num free a)] ++ batchB num free a)],
      [tagByteOf a.statusChannel], channelPayload a.statusChannel,
      [sum8 (bodyA num free a)]].flatten by simp [pktEncode, bodyOf, bodyA]]
  exact slice_flatten (ls := [1, 21, 1, 38, 1, 1, 8, 1]) (by simp) 1 rfl rfl rfl

/-- Offsets 1 to 60: batch A, its checksum, batch B. -/
theorem slice_pktEncode_batchB : slice (pktEncode num free (.structureA a)) 1 60 =
    batchA num free a ++ [sum8 (batchA num free a)] ++ batchB num free a := by
  rw [show pktEncode num free (.structureA a) =
    [[syncByte], batchA num free a ++ [sum8 (batchA num free a)] ++ batchB num free a,
      [sum8 (batchA num free a ++ [sum8 (batchA num free a)] ++ batchB num free a)],
      [tagByteOf a.statusChannel], channelPayload a.statusChannel,
      [sum8 (bodyA num free a)]].flatten by simp [pktEncode, bodyOf, bodyA]]
  exact slice_flatten (ls := [1, 60, 1, 1, 8, 1]) (by simp) 1 rfl rfl rfl

theorem slice_pktEncode_checksum1 : slice (pktEncode num free (.structureA a)) 22 1 =
    [sum8 (slice (pktEncode num free (.structureA a)) 1 21)] := by
  rw [slice_pktEncode_batchA, pktEncode_structureA]
  exact slice_flatten (length_segmentsA ..) 9 rfl rfl rfl

theorem slice_pktEncode_latitude : slice (pktEncode num free (.structureA a)) 23 8 =
    leBytes 8 a.latitude.toNat := by
  rw [pktEncode_structureA]; exact slice_flatten (length_segmentsA ..) 10 rfl rfl rfl

theorem slice_pktEncode_longitude : slice (pktEncode num free (.structureA a)) 31 8 =
    leBytes 8 a.longitude.toNat := by
  rw [pktEncode_structureA]; exact slice_flatten (length_segmentsA ..) 11 rfl rfl rfl

theorem slice_pktEncode_altitude : slice (pktEncode num free (.structureA a)) 39 4 =
    leBytes 4 a.altitude.toNat := by
  rw [pktEncode_structureA]; exact slice_flatten (length_segmentsA ..) 12 rfl rfl rfl

theorem slice_pktEncode_velocityNorth : slice (pktEncode num free (.structureA a)) 43 3 =
    encField num (free 6) a.velocityNorth sVel := by
  rw [pktEncode_structureA]; exact slice_flatten (length_segmentsA ..) 13 rfl rfl rfl

theorem slice_pktEncode_velocityEast : slice (pktEncode num free (.structureA a)) 46 3 =
    encField num (free 7) a.velocityEast sVel := by
  rw [pktEncode_structureA]; exact slice_flatten (length_segmentsA ..) 14 rfl rfl rfl

theorem slice_pktEncode_velocityDown : slice (pktEncode num free (.structureA a)) 49 3 =
    encField num (free 8) a.velocityDown sVel := by
  rw [pktEncode_structureA]; exact slice_flatten (length_segmentsA ..) 15 rfl rfl rfl

theorem slice_pktEncode_heading : slice (pktEncode num free (.structureA a)) 52 3 =
    encField num (free 9) a.heading sOri := by
  rw [pktEncode_structureA]; exact slice_flatten (length_segmentsA ..) 16 rfl rfl rfl

theorem slice_pktEncode_pitch : slice (pktEncode num free (.structureA a)) 55 3 =
    encField num (free 10) a.pitch sOri := by
  rw [pktEncode_structureA]; exact slice_flatten (length_segmentsA ..) 17 rfl rfl rfl

theorem slice_pktEncode_roll : slice (pktEncode num free (.structureA a)) 58 3 =
    encField num (free 11) a.roll sOri := by
  rw [pktEncode_structureA]; exact slice_flatten (length_segmentsA ..) 18 rfl rfl rfl

theorem slice_pktEncode_checksum2 : slice (pktEncode num free (.structureA a)) 61 1 =
    [sum8 (slice (pktEncode num free (.structureA a)) 1 60)] := by
  rw [slice_pktEncode_batchB, pktEncode_structureA]
  exact slice_flatten (length_segmentsA ..) 19 rfl rfl rfl

theorem slice_pktEncode_tag : slice (pktEncode num free (.structureA a)) 62 1 =
    [tagByteOf a.statusChannel] := by
  rw [pktEncode_structureA]; exact slice_flatten (length_segmentsA ..) 20 rfl rfl rfl

theorem slice_pktEncode_payload : slice (pktEncode num free (.structureA a)) 63 8 =
    channelPayload a.statusChannel := by
  rw [pktEncode_structureA]; exact slice_flatten (length_segmentsA ..) 21 rfl rfl rfl

end

/-! The envelope, of both structures. -/

section
variable (num : NumRec) (free : Nat → I32) (p : Packet)

theorem slice_pktEncode_sync : slice (pktEncode num free p) 0 1 = [syncByte] := by
  simp [pktEncode, slice]

theorem slice_pktEncode_body : slice (pktEncode num free p) 1 70 = bodyOf num free p := by
  rw [show pktEncode num free p =
    [syncByte] ++ (bodyOf num free p ++ [sum8 (bodyOf num free p)]) by simp [pktEncode]]
  rw [slice_append_right _ _ _ (by simp), slice_append_left _ _ (by simp)]
  simpa using slice_all (bodyOf num free p)

theorem slice_pktEncode_checksum3 : slice (pktEncode num free p) 71 1 =
    [sum8 (slice (pktEncode num free p) 1 70)] := by
  rw [slice_pktEncode_body, show pktEncode num free p =
    [[syncByte], bodyOf num free p, [sum8 (bodyOf num free p)]].flatten by simp [pktEncode]]
  exact slice_flatten (ls := [1, 70, 1]) (by simp) 2 rfl rfl rfl

end

/-! Decoding. -/

/-- `ROUTE` line by line (R135), in the words of the statements. -/
theorem routeOf_eq (policy : BitVec 2) (nav : Byte) :
    routeOf policy nav =
      if nav = 11 then .B
      else if nav ∈ ([0, 1, 2, 3, 4, 5, 6, 7, 10, 20, 21, 22] : List Byte) then .A
      else if policy = 1 then .A
      else if policy = 2 then .B
      else .reject := by
  simp only [routeOf, navB, navAllowed, navPolicyOf, List.contains_iff_mem]
  split
  · rfl
  · split
    · rfl
    · by_cases h1 : policy = 1
      · simp only [h1, if_true]
      · by_cases h2 : policy = 2
        · subst h2
          rfl
        · simp only [h1, h2, if_false]

/-- A value of the allowed set routes to structure-A under every policy. -/
theorem routeOf_allowed (policy : BitVec 2) {nav : Byte}
    (h : nav ∈ ([0, 1, 2, 3, 4, 5, 6, 7, 10, 20, 21, 22] : List Byte)) :
    routeOf policy nav = .A := by
  rw [routeOf_eq, if_neg, if_pos h]
  rintro rfl
  revert h
  decide

/-- The body's fields depend on offsets 1 to 70 alone (R152). -/
theorem putBodyA_congr (num : NumRec) {b d : List Byte} (s : State)
    (h : ∀ k, 1 ≤ k → k ≤ 70 → b[k]? = d[k]?) :
    putBodyA (decodeA num b) s = putBodyA (decodeA num d) s := by
  have hs : ∀ off n, 1 ≤ off → off + n ≤ 71 → slice b off n = slice d off n := fun off n h1 h2 =>
    slice_congr fun k h3 h4 => h k (by omega) (by omega)
  have hb : ∀ off, 1 ≤ off → off ≤ 70 → byteAt b off = byteAt d off := fun off h1 h2 => by
    rw [byteAt, byteAt, memRead, memRead, hs off 1 h1 (by omega)]
  have h16 : read16 b 1 = read16 d 1 := by
    rw [read16, read16, memRead, memRead, hs 1 2 (by omega) (by omega)]
  have h32 : read32 b 39 = read32 d 39 := by
    rw [read32, read32, memRead, memRead, hs 39 4 (by omega) (by omega)]
  have h64 : ∀ off, 1 ≤ off → off + 8 ≤ 71 → read64 b off = read64 d off := fun off h1 h2 => by
    rw [read64, read64, memRead, memRead, hs off 8 h1 h2]
  have hd : ∀ off sc, 1 ≤ off → off + 3 ≤ 71 → decField num b off sc = decField num d off sc :=
    fun off sc h1 h2 => by
      rw [decField, decField, hb off h1 (by omega), hb (off + 1) (by omega) (by omega),
        hb (off + 2) (by omega) (by omega)]
  have h1 : chk1Ok b = chk1Ok d := by
    rw [chk1Ok, chk1Ok, csumOf, csumOf, hs 1 _ (by omega) (by omega), hb offChk1 (by decide) (by decide)]
  have h2 : chk2Ok b = chk2Ok d := by
    rw [chk2Ok, chk2Ok, csumOf, csumOf, hs 1 _ (by omega) (by omega), hb offChk2 (by decide) (by decide)]
  have hc : channelOf (byteAt b offTag) (slice b offPay payLen) =
      channelOf (byteAt d offTag) (slice d offPay payLen) := by
    rw [hb offTag (by decide) (by decide), hs offPay payLen (by decide) (by decide)]
  simp only [putBodyA, pkOfA, decodeA, h16, h32, h64 23 (by omega) (by omega),
    h64 31 (by omega) (by omega), h1, h2, hc, hd 3 _ (by omega) (by omega),
    hd 6 _ (by omega) (by omega), hd 9 _ (by omega) (by omega), hd 12 _ (by omega) (by omega),
    hd 15 _ (by omega) (by omega), hd 18 _ (by omega) (by omega), hd 43 _ (by omega) (by omega),
    hd 46 _ (by omega) (by omega), hd 49 _ (by omega) (by omega), hd 52 _ (by omega) (by omega),
    hd 55 _ (by omega) (by omega), hd 58 _ (by omega) (by omega)]

/-- `A.DEC` of a buffer whose offsets 1 to 70 hold a packet's bytes. -/
theorem bodyDecA_of_bytes {s : State} {b : List Byte} (hl : 71 ≤ b.length)
    (h : ∀ k, 1 ≤ k → k ≤ 70 → s.pb.read k = b[k]?) :
    bodyDecA s = some (putBodyA (decodeA (numOf s.num) b) s) := by
  cases hb : bodyOperand s with
  | none =>
    obtain ⟨k, h1, h2, hk⟩ := (bodyOperand_eq_none s).1 hb
    rw [h k h1 h2, List.getElem?_eq_none_iff] at hk
    omega
  | some c =>
    have hc := ((bodyOperand_eq_some s c).1 hb).2.2
    rw [bodyDecA, hb, Option.map_some,
      putBodyA_congr _ s fun k h1 h2 => (hc k h1 h2).symm.trans (h k h1 h2)]

/-- `PKT.DEC` of a buffer of at least 72 bytes with values. -/
theorem exec_pktDec_of_bytes {s : State} {len : Nat} {b : List Byte} (hf : s.fault = false)
    (hl : s.pbLen = some len) (h : 72 ≤ len) (hb : pbOperand s = some b) :
    exec .pktDec s = .next (match pktDecode (numOf s.num) s.navPolicy len b with
      | .ok p => complete (putPacket p s)
      | .error e => raise e s) := by
  have h' : ¬ len < pktLen := by simp only [pktLen]; omega
  simp only [exec, execPktDec, hl, h', if_false, hb, Option.map_some]
  exact runOp_some hf _

theorem pktDecode_short (num : NumRec) (policy : BitVec 2) {len : Nat} (b : List Byte) (h : len < 72) :
    pktDecode num policy len b = .error .structuralShort := if_pos h

theorem pktDecode_notSync (num : NumRec) (policy : BitVec 2) {len : Nat} {b : List Byte}
    (h : 72 ≤ len) (h0 : byteAt b 0 ≠ 0xE7) :
    pktDecode num policy len b = .error .structuralSync := by
  have h' : ¬ len < pktLen := by simp only [pktLen]; omega
  have h0' : byteAt b 0 ≠ syncByte := h0
  rw [pktDecode, if_neg h', if_pos h0']

theorem pktDecode_routed (num : NumRec) (policy : BitVec 2) {len : Nat} {b : List Byte}
    (h : 72 ≤ len) (h0 : byteAt b 0 = 0xE7) :
    pktDecode num policy len b = match routeOf policy (byteAt b 21) with
      | .reject => .error .unrecognizedNav
      | .A => .ok (.structureA (decodeA num b))
      | .B => .ok (.structureB (decodeB b)) := by
  have h' : ¬ len < pktLen := by simp only [pktLen]; omega
  have h0' : ¬ byteAt b 0 ≠ syncByte := not_not.2 h0
  rw [pktDecode, if_neg h', if_neg h0']
  rfl

/-- An int24 field that stands at an offset decodes to its product with the scale. -/
theorem decField_of_slice (num : NumRec) {b : List Byte} {off : Nat} {free : I32} {v s : F32}
    (h : slice b off 3 = encField num free v s) :
    decField num b off s =
      dequantOf num (BitVec.ofInt 32 (signed24 ((encInt num free v s).toNat % 2 ^ 24))) s := by
  have hk : ∀ k, k < 3 → byteAt b (off + k) = packByte (encInt num free v s) k := by
    intro k hk
    have e := getElem?_slice b off 3 k
    rw [h, if_pos hk] at e
    rw [byteAt_eq, ← e]
    interval_cases k <;> rfl
  rw [decField, ← unpack24_packByte, ← hk 0 (by omega), ← hk 1 (by omega), ← hk 2 (by omega)]
  rfl

/-- The number of an int24 field that stands at an offset. -/
theorem memRead_encField (num : NumRec) {b : List Byte} {off : Nat} {free : I32} {v s : F32}
    (h : slice b off 3 = encField num free v s) :
    memRead b off 3 = (encInt num free v s).toNat % 2 ^ 24 := by
  rw [memRead, h, ← packByte_number]
  simp [encField, pack24, leNat]
  omega

/-- A decoded int24 field, in the words of the statements. -/
theorem decField_eq_int24Value (num : NumRec) {b : List Byte} {off : Nat} (hb : off + 3 ≤ b.length)
    (s : F32) : decField num b off s = int24Value num b off s := by
  rw [int24Value, memRead_three b off hb, ← toInt_unpack24, BitVec.ofInt_toInt, decField]

end Sys2Proof.Machine
end

