-- ==== Sys2Proof/Laws/PerInstr.lean ====
section
/-! SUPPORT. Statements for all operations, one lemma a constructor: the selector of every well-formed
operation is the one its row of spec/opcode_table.json gives. The rows below are transcribed from the
table; a row is named by its rule number. -/

namespace Sys2Proof.Laws

-- One theorem at a time: kernel evaluations that wait side by side each hold a thread.
set_option Elab.async false

/-- The formats of the opcode table, TAG split into its decode and encode rows. -/
inductive TableFormat where
  | cmd
  | nav
  | tagDec
  | tagEnc
  | byte0
  | subop
  deriving DecidableEq, Repr

/-- A row of the opcode table: format, rule number, match, mask (0 where the table says "default"). -/
structure TableRow where
  format : TableFormat
  rule : Nat
  value : Nat
  mask : Nat
  deriving DecidableEq, Repr

/-- The CMD rows (R95, R96). -/
def cmdRows : List TableRow :=
  [⟨.cmd, 114, 0x1, 0xF⟩, ⟨.cmd, 116, 0x2, 0xF⟩, ⟨.cmd, 132, 0x3, 0xF⟩,
    ⟨.cmd, 134, 0x4, 0xF⟩, ⟨.cmd, 172, 0x5, 0xF⟩, ⟨.cmd, 173, 0x6, 0xF⟩,
    ⟨.cmd, 170, 0x7, 0xF⟩, ⟨.cmd, 214, 0x8, 0xF⟩, ⟨.cmd, 110, 0x9, 0xF⟩,
    ⟨.cmd, 111, 0xA, 0xF⟩, ⟨.cmd, 96, 0x0, 0xF⟩, ⟨.cmd, 96, 0xB, 0xF⟩, ⟨.cmd, 96, 0xC, 0xF⟩,
    ⟨.cmd, 96, 0xD, 0xF⟩, ⟨.cmd, 96, 0xE, 0xF⟩, ⟨.cmd, 96, 0xF, 0xF⟩]

/-- The NAV rows (R90). -/
def navRows : List TableRow :=
  [⟨.nav, 154, 0x0B, 0xFF⟩, ⟨.nav, 152, 0x00, 0xFF⟩, ⟨.nav, 152, 0x01, 0xFF⟩,
    ⟨.nav, 152, 0x02, 0xFF⟩, ⟨.nav, 152, 0x03, 0xFF⟩, ⟨.nav, 152, 0x04, 0xFF⟩,
    ⟨.nav, 152, 0x05, 0xFF⟩, ⟨.nav, 152, 0x06, 0xFF⟩, ⟨.nav, 152, 0x07, 0xFF⟩,
    ⟨.nav, 152, 0x0A, 0xFF⟩, ⟨.nav, 152, 0x14, 0xFF⟩, ⟨.nav, 152, 0x15, 0xFF⟩,
    ⟨.nav, 152, 0x16, 0xFF⟩, ⟨.nav, 135, 0x00, 0x00⟩]

/-- The TAG rows (R92, R93), decode and encode. -/
def tagRows : List TableRow :=
  [⟨.tagDec, 175, 0x00, 0xFF⟩, ⟨.tagEnc, 174, 0x00, 0xFF⟩, ⟨.tagDec, 177, 0x01, 0xFF⟩,
    ⟨.tagEnc, 176, 0x01, 0xFF⟩, ⟨.tagDec, 179, 0x02, 0xFF⟩, ⟨.tagEnc, 178, 0x02, 0xFF⟩,
    ⟨.tagDec, 181, 0x03, 0xFF⟩, ⟨.tagEnc, 180, 0x03, 0xFF⟩, ⟨.tagDec, 183, 0x04, 0xFF⟩,
    ⟨.tagEnc, 182, 0x04, 0xFF⟩, ⟨.tagDec, 185, 0x05, 0xFF⟩, ⟨.tagEnc, 184, 0x05, 0xFF⟩,
    ⟨.tagDec, 187, 0x06, 0xFF⟩, ⟨.tagEnc, 186, 0x06, 0xFF⟩, ⟨.tagDec, 189, 0x07, 0xFF⟩,
    ⟨.tagEnc, 188, 0x07, 0xFF⟩, ⟨.tagDec, 191, 0x08, 0xFF⟩, ⟨.tagEnc, 190, 0x08, 0xFF⟩,
    ⟨.tagDec, 193, 0x09, 0xFF⟩, ⟨.tagEnc, 192, 0x09, 0xFF⟩, ⟨.tagDec, 195, 0x00, 0x00⟩,
    ⟨.tagEnc, 194, 0xFF, 0xFF⟩]

/-- The BYTE0 row (R70). -/
def byte0Rows : List TableRow :=
  [⟨.byte0, 70, 0xE7, 0xFF⟩]

/-- The SUBOP rows, which have no match: numbered in the order of `SubOp`. -/
def subopRows : List TableRow :=
  [⟨.subop, 130, 0, 0xFF⟩, ⟨.subop, 113, 1, 0xFF⟩, ⟨.subop, 115, 2, 0xFF⟩,
    ⟨.subop, 135, 3, 0xFF⟩, ⟨.subop, 150, 4, 0xFF⟩, ⟨.subop, 153, 5, 0xFF⟩,
    ⟨.subop, 210, 6, 0xFF⟩, ⟨.subop, 213, 7, 0xFF⟩]

/-- The whole table, in its order. -/
def opcodeRows : List TableRow := cmdRows ++ navRows ++ tagRows ++ byte0Rows ++ subopRows

/-- The number of a `SUBOP` row. -/
def subopNumber : SubOp → Nat
  | .csum _ _ => 0
  | .quant => 1
  | .dequant => 2
  | .route => 3
  | .aEnc => 4
  | .bEnc => 5
  | .scanInit => 6
  | .scanStep => 7

/-- A selector's format and number. -/
def selectorCode : Selector → TableFormat × Nat
  | .cmd op => (.cmd, op.toNat)
  | .nav b => (.nav, b.toNat)
  | .tagDec b => (.tagDec, b.toNat)
  | .tagEnc b => (.tagEnc, b.toNat)
  | .byte0 _ b => (.byte0, b.toNat)
  | .sub op => (.subop, subopNumber op)

/-- A row matches a number of its format. -/
def TableRow.hits (r : TableRow) (c : TableFormat × Nat) : Bool :=
  r.format == c.1 && c.2 &&& r.mask == r.value

/-- The first row a selector matches (R100), by its rule. -/
def rowRule (sel : Selector) : Option Nat :=
  (opcodeRows.find? fun r => r.hits (selectorCode sel)).map TableRow.rule

/-- The rule of an operation's row. -/
def tableRule : Instr → Nat
  | .enc24 => 114
  | .dec24 => 116
  | .pktEnc => 132
  | .pktDec => 134
  | .scEnc => 172
  | .scDec => 173
  | .scLookup => 170
  | .scan => 214
  | .i24Pack => 110
  | .i24Unpack => 111
  | .illegal _ => 96
  | .bDec => 154
  | .aDec _ => 152
  | .routeOutOfSet _ => 135
  | .sc0Dec => 175
  | .sc0Enc => 174
  | .sc1Dec => 177
  | .sc1Enc => 176
  | .sc2Dec => 179
  | .sc2Enc => 178
  | .sc3Dec => 181
  | .sc3Enc => 180
  | .sc4Dec => 183
  | .sc4Enc => 182
  | .sc5Dec => 185
  | .sc5Enc => 184
  | .sc6Dec => 187
  | .sc6Enc => 186
  | .sc7Dec => 189
  | .sc7Enc => 188
  | .sc8Dec => 191
  | .sc8Enc => 190
  | .sc9Dec => 193
  | .sc9Enc => 192
  | .scNoneDec _ => 195
  | .scNoneEnc => 194
  | .csum _ _ => 130
  | .quant => 113
  | .dequant => 115
  | .route => 135
  | .aEnc => 150
  | .bEnc => 153
  | .scanInit => 210
  | .scanStep => 213
  | .sync _ => 70

/-- The selector of a well-formed operation matches, first of all rows, the row of its rule, and decodes
to the operation. -/
def SelectorRow.Statement (i : Instr) : Prop :=
  i.wellFormed = true → rowRule (encode i) = some (tableRule i) ∧ decode (encode i) = .ok i

theorem SelectorRow.enc24 : SelectorRow.Statement .enc24 := fun _ => ⟨by rfl, by rfl⟩
theorem SelectorRow.dec24 : SelectorRow.Statement .dec24 := fun _ => ⟨by rfl, by rfl⟩
theorem SelectorRow.pktEnc : SelectorRow.Statement .pktEnc := fun _ => ⟨by rfl, by rfl⟩
theorem SelectorRow.pktDec : SelectorRow.Statement .pktDec := fun _ => ⟨by rfl, by rfl⟩
theorem SelectorRow.scEnc : SelectorRow.Statement .scEnc := fun _ => ⟨by rfl, by rfl⟩
theorem SelectorRow.scDec : SelectorRow.Statement .scDec := fun _ => ⟨by rfl, by rfl⟩
theorem SelectorRow.scLookup : SelectorRow.Statement .scLookup := fun _ => ⟨by rfl, by rfl⟩
theorem SelectorRow.scan : SelectorRow.Statement .scan := fun _ => ⟨by rfl, by rfl⟩
theorem SelectorRow.i24Pack : SelectorRow.Statement .i24Pack := fun _ => ⟨by rfl, by rfl⟩
theorem SelectorRow.i24Unpack : SelectorRow.Statement .i24Unpack := fun _ => ⟨by rfl, by rfl⟩
theorem SelectorRow.illegal (code : BitVec 4) : SelectorRow.Statement (.illegal code) := by
  have h : ∀ c : BitVec 4, (Instr.illegal c).wellFormed = true →
      rowRule (.cmd c) = some 96 ∧ decodeCmd c = .illegal c := by decide +kernel
  exact fun hw => ⟨(h code hw).1, congrArg Except.ok (h code hw).2⟩
theorem SelectorRow.bDec : SelectorRow.Statement .bDec := fun _ => ⟨by rfl, by rfl⟩
theorem SelectorRow.aDec (nav : Byte) : SelectorRow.Statement (.aDec nav) := by
  have h : ∀ b : Byte, (Instr.aDec b).wellFormed = true →
      rowRule (.nav b) = some 152 ∧ decodeNav b = .aDec b := by decide +kernel
  exact fun hw => ⟨(h nav hw).1, congrArg Except.ok (h nav hw).2⟩
theorem SelectorRow.routeOutOfSet (nav : Byte) : SelectorRow.Statement (.routeOutOfSet nav) := by
  have h : ∀ b : Byte, (Instr.routeOutOfSet b).wellFormed = true →
      rowRule (.nav b) = some 135 ∧ decodeNav b = .routeOutOfSet b := by decide +kernel
  exact fun hw => ⟨(h nav hw).1, congrArg Except.ok (h nav hw).2⟩
theorem SelectorRow.sc0Dec : SelectorRow.Statement .sc0Dec := fun _ => ⟨by rfl, by rfl⟩
theorem SelectorRow.sc0Enc : SelectorRow.Statement .sc0Enc := fun _ => ⟨by rfl, by rfl⟩
theorem SelectorRow.sc1Dec : SelectorRow.Statement .sc1Dec := fun _ => ⟨by rfl, by rfl⟩
theorem SelectorRow.sc1Enc : SelectorRow.Statement .sc1Enc := fun _ => ⟨by rfl, by rfl⟩
theorem SelectorRow.sc2Dec : SelectorRow.Statement .sc2Dec := fun _ => ⟨by rfl, by rfl⟩
theorem SelectorRow.sc2Enc : SelectorRow.Statement .sc2Enc := fun _ => ⟨by rfl, by rfl⟩
theorem SelectorRow.sc3Dec : SelectorRow.Statement .sc3Dec := fun _ => ⟨by rfl, by rfl⟩
theorem SelectorRow.sc3Enc : SelectorRow.Statement .sc3Enc := fun _ => ⟨by rfl, by rfl⟩
theorem SelectorRow.sc4Dec : SelectorRow.Statement .sc4Dec := fun _ => ⟨by rfl, by rfl⟩
theorem SelectorRow.sc4Enc : SelectorRow.Statement .sc4Enc := fun _ => ⟨by rfl, by rfl⟩
theorem SelectorRow.sc5Dec : SelectorRow.Statement .sc5Dec := fun _ => ⟨by rfl, by rfl⟩
theorem SelectorRow.sc5Enc : SelectorRow.Statement .sc5Enc := fun _ => ⟨by rfl, by rfl⟩
theorem SelectorRow.sc6Dec : SelectorRow.Statement .sc6Dec := fun _ => ⟨by rfl, by rfl⟩
theorem SelectorRow.sc6Enc : SelectorRow.Statement .sc6Enc := fun _ => ⟨by rfl, by rfl⟩
theorem SelectorRow.sc7Dec : SelectorRow.Statement .sc7Dec := fun _ => ⟨by rfl, by rfl⟩
theorem SelectorRow.sc7Enc : SelectorRow.Statement .sc7Enc := fun _ => ⟨by rfl, by rfl⟩
theorem SelectorRow.sc8Dec : SelectorRow.Statement .sc8Dec := fun _ => ⟨by rfl, by rfl⟩
theorem SelectorRow.sc8Enc : SelectorRow.Statement .sc8Enc := fun _ => ⟨by rfl, by rfl⟩
theorem SelectorRow.sc9Dec : SelectorRow.Statement .sc9Dec := fun _ => ⟨by rfl, by rfl⟩
theorem SelectorRow.sc9Enc : SelectorRow.Statement .sc9Enc := fun _ => ⟨by rfl, by rfl⟩
theorem SelectorRow.scNoneDec (tag : Byte) : SelectorRow.Statement (.scNoneDec tag) := by
  have h : ∀ b : Byte, (Instr.scNoneDec b).wellFormed = true →
      rowRule (.tagDec b) = some 195 ∧ decodeTag b = .scNoneDec b := by decide +kernel
  exact fun hw => ⟨(h tag hw).1, congrArg Except.ok (h tag hw).2⟩
theorem SelectorRow.scNoneEnc : SelectorRow.Statement .scNoneEnc := fun _ => ⟨by rfl, by rfl⟩
theorem SelectorRow.csum (lo hi : Nat) : SelectorRow.Statement (.csum lo hi) := by
  intro hw
  have h : lo ≤ hi ∧ hi < Machine.pktLen := by simpa [Instr.wellFormed] using hw
  have hr : (opcodeRows.find? fun r => r.hits (.subop, 0)).map TableRow.rule = some 130 := by rfl
  exact ⟨hr, by simp [encode, decode, decodeSub, h]⟩
theorem SelectorRow.quant : SelectorRow.Statement .quant := fun _ => ⟨by rfl, by rfl⟩
theorem SelectorRow.dequant : SelectorRow.Statement .dequant := fun _ => ⟨by rfl, by rfl⟩
theorem SelectorRow.route : SelectorRow.Statement .route := fun _ => ⟨by rfl, by rfl⟩
theorem SelectorRow.aEnc : SelectorRow.Statement .aEnc := fun _ => ⟨by rfl, by rfl⟩
theorem SelectorRow.bEnc : SelectorRow.Statement .bEnc := fun _ => ⟨by rfl, by rfl⟩
theorem SelectorRow.scanInit : SelectorRow.Statement .scanInit := fun _ => ⟨by rfl, by rfl⟩
theorem SelectorRow.scanStep : SelectorRow.Statement .scanStep := fun _ => ⟨by rfl, by rfl⟩
theorem SelectorRow.sync (site : SyncSite) : SelectorRow.Statement (.sync site) := by
  intro _; cases site <;> exact ⟨by rfl, by rfl⟩

end Sys2Proof.Laws
end

