-- ==== Sys2Proof/Tests/Slice0.lean ====
section
/-! SUPPORT. The model's own tests: ill-formed operations refused, every operation's selector written out
from its row of the opcode table, one or two steps of every operation with the results of
spec/95_test_vectors.md (each test names its vector), and a witness for the hypotheses of every
statement. -/

namespace Sys2Proof.Tests

-- One theorem at a time: kernel evaluations that wait side by side each hold a thread.
set_option Elab.async false

open Sys2Proof Sys2Proof.Machine

/-! ### Helpers -/

/-- What a step's next state holds, if there is one. -/
def look {α : Type} (r : Host.Outcome State Fault Refusal) (f : State → α) : Option α :=
  match r with
  | .next t => some (f t)
  | .fault _ => none
  | .refused _ => none

theorem exists_next {α : Type} {r : Host.Outcome State Fault Refusal} {f : State → α} {x : α}
    (h : look r f = some x) : ∃ t, r = .next t ∧ f t = x := by
  cases r with
  | next t => exact ⟨t, rfl, Option.some.inj h⟩
  | fault e => cases h
  | refused e => cases h

/-- After reset, with `FX.V` and `FX.S`. -/
def fxVS (v s : F32) : State := { State.reset with fx := { v := some v, s := some s } }

/-- After reset, with `FX.B` and `FX.S`. -/
def fxBS (b0 b1 b2 : Byte) (s : F32) : State :=
  { State.reset with fx := { b0 := some b0, b1 := some b1, b2 := some b2, s := some s } }

/-- After reset, with `FX.N`. -/
def fxN (n : I32) : State := { State.reset with fx := { n := some n } }

/-- After reset, with a packet buffer. -/
def withPb (bytes : List Byte) : State :=
  { State.reset with pb := Memory.ofBytes bytes, pbLen := some bytes.length }

/-- After reset, with a status payload. -/
def withSp (bytes : List Byte) : State := { State.reset with sp := Memory.ofBytes bytes }

/-- After reset, with the `SC.*` registers. -/
def withSc (r : ScRegs) : State := { State.reset with sc := r }

/-- After reset, with a stream. -/
def withSb (bytes : List Byte) : State :=
  { State.reset with sb := Memory.ofBytes bytes, sbLen := some bytes.length }

/-- The packet of program P1. -/
def packetP1 : List Byte :=
    [0xE7, 0xD2, 0x04, 0x1A, 0x0B, 0x00, 0xB5, 0x87, 0xFE, 0x13, 0x7F, 0x01] ++
    [0xCB, 0xFD, 0xFF, 0x00, 0x00, 0x00, 0xE8, 0x03, 0x00, 0x04, 0x7E, 0xCD] ++
    [0xCC, 0xCC, 0xCC, 0xCC, 0xCC, 0xEC, 0x3F, 0x7B, 0x14, 0xAE, 0x47, 0xE1] ++
    [0x7A, 0x94, 0xBF, 0x00, 0x00, 0xF7, 0x42, 0xA0, 0x86, 0x01, 0x78, 0xEC] ++
    [0xFF, 0x01, 0x00, 0x00, 0x60, 0xE3, 0x16, 0x70, 0x2F, 0xFC, 0x01, 0x00] ++
    [0x00, 0xDB, 0x00, 0x87, 0xD6, 0x12, 0x00, 0x09, 0x04, 0x03, 0x02, 0x37]

/-- After reset, with offsets 1 to 70 of the packet of program P1 and no byte at 0 or 71. -/
def bodyP1 : State := { State.reset with pb := Memory.writeRange [] 1 (slice packetP1 1 70) }

/-- The packet of vector V63. -/
def packetB : List Byte := [0xE7] ++ List.replicate 20 0 ++ [11] ++ List.replicate 49 0 ++ [11]

/-- The packet of example S5. -/
def packetZero : List Byte := [0xE7] ++ List.replicate 71 0

/-- The packet of vector V61. -/
def packetNav8 : List Byte := [0xE7] ++ List.replicate 20 0 ++ [8] ++ List.replicate 50 0

/-- The status channel of vector V44. -/
def regsSc0 : ScRegs where
  present := some true
  tag := some 0
  fullTime := some 1234567
  numSatellites := some 9
  positionMode := some 4
  velocityMode := some 3
  orientationMode := some 2

/-- The record of program P1. -/
def regsP1 : PkRegs where
  kind := some .A
  navigationStatus := some 4
  time := some 61234
  accelerationX := some 0x3E9182AA
  accelerationY := some 0xC11A212D
  accelerationZ := some 0x411CE80A
  angularRateX := some 0xBBB923A3
  angularRateY := some 0
  angularRateZ := some 0x3C23D70A
  latitude := some 0x3FECCCCCCCCCCCCD
  longitude := some 0xBF947AE147AE147B
  altitude := some 0x42F70000
  velocityNorth := some 0x41200000
  velocityEast := some 0xBF000000
  velocityDown := some 0x38D1B717
  heading := some 0x3FC00000
  pitch := some 0xBE800000
  roll := some 0x358637BD

/-- The start of program P1. -/
def startP1 : State := { State.reset with pk := regsP1, sc := regsSc0 }

/-! ### Ill-formed operations -/

/-- R96: a command code with a row of its own is not ILLEGAL. -/
theorem test_illformed_illegal : (Instr.illegal 3).wellFormed = false := by decide
/-- R90: 8 selects no structure. -/
theorem test_illformed_aDec : (Instr.aDec 8).wellFormed = false := by decide
/-- R90: 11 selects structure-B. -/
theorem test_illformed_routeOutOfSet_b : (Instr.routeOutOfSet 11).wellFormed = false := by decide
/-- R90: 0 selects structure-A. -/
theorem test_illformed_routeOutOfSet_a : (Instr.routeOutOfSet 0).wellFormed = false := by decide
/-- R93: tag 9 is registered. -/
theorem test_illformed_scNoneDec : (Instr.scNoneDec 9).wellFormed = false := by decide
/-- R130: an empty range. -/
theorem test_illformed_csum_order : (Instr.csum 5 4).wellFormed = false := by decide
/-- R130, R50: offset 72 is outside the packet buffer. -/
theorem test_illformed_csum_bound : (Instr.csum 1 72).wellFormed = false := by decide
/-- The same range is no selector. -/
theorem test_illformed_csum_decode :
    decode (.sub (.csum 1 72)) = .error .checksumRange := by decide
/-- The same range run all the same stops the machine. -/
theorem test_illformed_csum_exec : exec (.csum 1 72) (withPb packetP1) = .fault .outsideBuffer := rfl
/-- R93: an encode writes no tag 10 to 254. -/
theorem test_illformed_encTag : decode (.tagEnc 10) = .error .noEncodeTag := by decide
/-- R70: another byte than the sync byte. -/
theorem test_illformed_sync : decode (.byte0 .candidate 0xE6) = .error .notSync := by decide

/-! ### Decoding, every operation -/

/-- The CMD rows, their four bits written out (R95, R96). -/
theorem test_decode_cmd :
    decode (.cmd 0b0001#4) = .ok .enc24 ∧
    decode (.cmd 0b0010#4) = .ok .dec24 ∧
    decode (.cmd 0b0011#4) = .ok .pktEnc ∧
    decode (.cmd 0b0100#4) = .ok .pktDec ∧
    decode (.cmd 0b0101#4) = .ok .scEnc ∧
    decode (.cmd 0b0110#4) = .ok .scDec ∧
    decode (.cmd 0b0111#4) = .ok .scLookup ∧
    decode (.cmd 0b1000#4) = .ok .scan ∧
    decode (.cmd 0b1001#4) = .ok .i24Pack ∧
    decode (.cmd 0b1010#4) = .ok .i24Unpack ∧
    decode (.cmd 0b0000#4) = .ok (.illegal 0) ∧
    decode (.cmd 0b1111#4) = .ok (.illegal 15) := by decide

/-- The NAV rows, their eight bits written out (R90). -/
theorem test_decode_nav :
    decode (.nav 0b00001011#8) = .ok .bDec ∧
    decode (.nav 0b00000000#8) = .ok (.aDec 0x00) ∧
    decode (.nav 0b00000111#8) = .ok (.aDec 0x07) ∧
    decode (.nav 0b00001010#8) = .ok (.aDec 0x0A) ∧
    decode (.nav 0b00010100#8) = .ok (.aDec 0x14) ∧
    decode (.nav 0b00010101#8) = .ok (.aDec 0x15) ∧
    decode (.nav 0b00010110#8) = .ok (.aDec 0x16) ∧
    decode (.nav 0b00001000#8) = .ok (.routeOutOfSet 0x08) ∧
    decode (.nav 0b11111111#8) = .ok (.routeOutOfSet 0xFF) := by decide

/-- The TAG rows of a decode, their eight bits written out (R92, R93). -/
theorem test_decode_tagDec :
    decode (.tagDec 0b00000000#8) = .ok .sc0Dec ∧
    decode (.tagDec 0b00000001#8) = .ok .sc1Dec ∧
    decode (.tagDec 0b00000010#8) = .ok .sc2Dec ∧
    decode (.tagDec 0b00000011#8) = .ok .sc3Dec ∧
    decode (.tagDec 0b00000100#8) = .ok .sc4Dec ∧
    decode (.tagDec 0b00000101#8) = .ok .sc5Dec ∧
    decode (.tagDec 0b00000110#8) = .ok .sc6Dec ∧
    decode (.tagDec 0b00000111#8) = .ok .sc7Dec ∧
    decode (.tagDec 0b00001000#8) = .ok .sc8Dec ∧
    decode (.tagDec 0b00001001#8) = .ok .sc9Dec ∧
    decode (.tagDec 0b00001010#8) = .ok (.scNoneDec 10) ∧
    decode (.tagDec 0b11111111#8) = .ok (.scNoneDec 255) := by decide

/-- The TAG rows of an encode, their eight bits written out (R172, R194). -/
theorem test_decode_tagEnc :
    decode (.tagEnc 0b00000000#8) = .ok .sc0Enc ∧
    decode (.tagEnc 0b00000001#8) = .ok .sc1Enc ∧
    decode (.tagEnc 0b00000010#8) = .ok .sc2Enc ∧
    decode (.tagEnc 0b00000011#8) = .ok .sc3Enc ∧
    decode (.tagEnc 0b00000100#8) = .ok .sc4Enc ∧
    decode (.tagEnc 0b00000101#8) = .ok .sc5Enc ∧
    decode (.tagEnc 0b00000110#8) = .ok .sc6Enc ∧
    decode (.tagEnc 0b00000111#8) = .ok .sc7Enc ∧
    decode (.tagEnc 0b00001000#8) = .ok .sc8Enc ∧
    decode (.tagEnc 0b00001001#8) = .ok .sc9Enc ∧
    decode (.tagEnc 0b11111111#8) = .ok .scNoneEnc := by decide

/-- The BYTE0 row at its two places (R70). -/
theorem test_decode_byte0 :
    decode (.byte0 .envelope 0b11100111#8) = .ok (.sync .envelope) ∧
    decode (.byte0 .candidate 0b11100111#8) = .ok (.sync .candidate) := by decide

/-- The SUBOP rows, invoked by name (R97). -/
theorem test_decode_sub :
    decode (.sub (.csum 1 21)) = .ok (.csum 1 21) ∧ decode (.sub .quant) = .ok .quant ∧
    decode (.sub .dequant) = .ok .dequant ∧ decode (.sub .route) = .ok .route ∧
    decode (.sub .aEnc) = .ok .aEnc ∧ decode (.sub .bEnc) = .ok .bEnc ∧
    decode (.sub .scanInit) = .ok .scanInit ∧ decode (.sub .scanStep) = .ok .scanStep := by decide

/-- Words of the opcode table, read by their bits. -/
theorem test_decodeTableWord :
    decodeTableWord 8 0x4 = some .pktDec ∧ decodeTableWord 8 0x16 = some (.aDec 0x16) ∧
    decodeTableWord 8 0xE7 = some (.sync .envelope) ∧ decodeTableWord 8 0xFF = some .scNoneEnc := by
  decide

/-- A step from reset runs a placed word: V73. -/
theorem test_withFetchWord_illegal :
    look (step (State.reset.withFetchWord 8 0x0)) (fun t => (t.fault, t.status, t.cmdOp)) =
      some (true, 7, some 0) := by decide

/-! ### The fixed-point codec -/

/-- S2: the low 24 bits of -96331. -/
theorem test_enc24_s2 :
    look (exec .enc24 (fxVS 0xC7BC2580 0x3F800000)) (fun t => (t.fx.n, fxBytes t.fx, t.status)) =
      some (some 0xFFFE87B5, some (0xB5, 0x87, 0xFE), 0) := by decide

/-- V20: the quotient of the two patterns is rounded to binary32 first, and the tie goes away from
zero, past the top of the range. -/
theorem test_enc24_v20 :
    look (exec .enc24 (fxVS 0x4451B716 0x38D1B717)) (fun t => (t.fx.n, fxBytes t.fx)) =
      some (some 8388608, some (0x00, 0x00, 0x80)) := by decide

/-- V39. -/
theorem test_dec24_v39 :
    look (exec .dec24 (fxBS 0xFF 0xFF 0x7F 0x3727C5AC)) (fun t => (t.fx.n, t.fx.v)) =
      some (some 8388607, some 0x42A7C5AB) := by decide

/-- V36: the sign bit, and a product that is rounded. -/
theorem test_dec24_v36 :
    look (exec .dec24 (fxBS 0x00 0x00 0x80 0x358637BD)) (fun t => (t.fx.n, t.fx.v)) =
      some (some 0xFF800000, some 0xC10637BD) := by decide

/-- V11: byte order, bits 31:24 dropped. -/
theorem test_i24Pack_v11 :
    look (exec .i24Pack (fxN 0xEDCBA988)) (fun t => fxBytes t.fx) = some (some (0x88, 0xA9, 0xCB)) := by decide

/-- V5. -/
theorem test_i24Unpack_v5 :
    look (exec .i24Unpack (fxBS 0x00 0x00 0x80 0)) (fun t => t.fx.n) = some (some 0xFF800000) := by decide

/-- V4: bit 23 clear. -/
theorem test_i24Unpack_v4 :
    look (exec .i24Unpack (fxBS 0xFF 0xFF 0x7F 0)) (fun t => t.fx.n) = some (some 0x007FFFFF) := by decide

/-- V26: a tie goes away from zero. -/
theorem test_quant_v26 :
    look (exec .quant (fxVS 0xC0200000 0x3F800000)) (fun t => t.fx.n) = some (some 0xFFFFFFFD) := by decide

/-- V27: just below a tie. -/
theorem test_quant_v27 :
    look (exec .quant (fxVS 0x3EFFFFFF 0x3F800000)) (fun t => t.fx.n) = some (some 0) := by decide

/-- V38. -/
theorem test_dequant_v38 :
    look (exec .dequant { State.reset with fx := { n := some 0xFF800000, s := some 0x38D1B717 } })
      (fun t => t.fx.v) = some (some 0xC451B717) := by decide

/-! ### The packet envelope and the bodies -/

/-- P1. -/
theorem test_pktEnc_p1 :
    look (exec .pktEnc startP1) (fun t => (pbOperand t, t.status)) = some (some packetP1, 0) := by decide +kernel

/-- V64: kind and status disagree. -/
theorem test_pktEnc_v64 :
    look (exec .pktEnc { State.reset with pk := { kind := some .B, navigationStatus := some 4 } })
      (fun t => pbOperand t) =
      some (some ([0xE7] ++ List.replicate 20 0 ++ [4] ++ List.replicate 49 0 ++ [4])) := by decide +kernel

/-- P1, the way back. -/
theorem test_pktDec_p1 :
    look (exec .pktDec (withPb packetP1))
      (fun t => (t.pk.time, t.pk.accelerationZ, t.pk.longitude, t.pk.checksum2Valid, t.sc)) =
      some (some 1234, some 0x411CE83E, some 0xBF947AE147AE147B, some true, regsSc0) := by decide +kernel

/-- V62: the sync test comes before the navigation status. -/
theorem test_pktDec_v62 :
    look (exec .pktDec (withPb ([0] ++ packetNav8.tail))) (fun t => (t.status, t.pk)) = some (2, {}) := by decide +kernel

/-- R154: no action. -/
theorem test_bDec :
    exec .bDec startP1 = .next startP1 := rfl

/-- P1: the body, without the envelope's fields. -/
theorem test_aDec_p1 :
    look (exec (.aDec 4) (withPb packetP1))
      (fun t => (t.pk.heading, t.pk.checksum1Valid, t.pk.navigationStatus, t.sc)) =
      some (some 0x3FC00000, some true, none, regsSc0) := by decide +kernel

/-- R152: the operands are offsets 1 to 70; offsets 0 and 71 hold no value. -/
theorem test_aDec_body :
    look (exec (.aDec 4) bodyP1) (fun u => (u.fault, u.pk.roll, u.pk.checksum2Valid, u.sc)) =
      some (false, some 0x358637BD, some true, regsSc0) := by decide +kernel

/-- V61 under `REJECT`. -/
theorem test_routeOutOfSet_v61_reject :
    look (exec (.routeOutOfSet 8) (withPb packetNav8)) (fun t => t.status) = some 3 := by decide

/-- V61 under `ACCEPT_A`: the sums are 8. -/
theorem test_routeOutOfSet_v61_acceptA :
    look (exec (.routeOutOfSet 8) { withPb packetNav8 with navPolicy := 1 })
      (fun t => (t.pk.checksum1Valid, t.pk.checksum2Valid, t.pk.roll)) =
      some (some false, some false, some 0) := by decide +kernel

/-- V41. -/
theorem test_csum_v41 :
    look (exec (.csum 1 60) (withPb packetP1)) (fun t => t.csumOut) = some (some 0xDB) := by decide +kernel

/-- V42: the largest sum. -/
theorem test_csum_v42 :
    look (exec (.csum 1 70) (withPb (List.replicate 72 0xFF))) (fun t => t.csumOut) = some (some 0xBA) := by decide +kernel

/-- P1's navigation status is 4. -/
theorem test_route_p1 :
    look (exec .route (withPb packetP1)) (fun t => t.routeOut) = some (some .A) := by decide +kernel

/-- V58 (d) under `ROUTE_B`, with 23. -/
theorem test_route_v58 :
    look (exec .route { State.reset with pb := [(21, 23)], navPolicy := 2 }) (fun t => t.routeOut) =
      some (some .B) := by decide

/-- P1: offsets 1 to 70. -/
theorem test_aEnc_p1 :
    look (exec .aEnc startP1) (fun t => (t.pb.readRange 1 70, t.pb.read 0, t.pb.read 71)) =
      some (some (slice packetP1 1 70), none, none) := by decide +kernel

/-- V63: offsets 1 to 70. -/
theorem test_bEnc_v63 :
    look (exec .bEnc { State.reset with pk := { navigationStatus := some 11 } })
      (fun t => (t.pb.readRange 1 70, t.pb.read 0)) = some (some (slice packetB 1 70), none) := by decide +kernel

/-- V60: no sync byte. -/
theorem test_sync_envelope :
    look (exec (.sync .envelope) (withPb [0])) (fun t => (t.syncOut, t.status)) = some (some false, 2) := by decide

/-- V68: the sync byte at offset 5. -/
theorem test_sync_candidate :
    look (exec (.sync .candidate) { withSb [1, 2, 3, 4, 5, 0xE7] with scanPos := 5 })
      (fun t => (t.syncOut, t.scanPos)) = some (some true, 5) := by decide

/-- V73. -/
theorem test_illegal_v73 :
    look (exec (.illegal 0xB) startP1) (fun t => t == startP1.violated) = some true := by decide +kernel

/-! ### The status channel -/

/-- V55: a registered tag. -/
theorem test_scLookup_v55 :
    look (exec .scLookup { State.reset with scTagByte := some 9 }) (fun t => (t.sc.present, t.sc.tag)) =
      some (some true, some 9) := by decide

/-- V55: 0x0A. -/
theorem test_scLookup_v55_none :
    look (exec .scLookup { State.reset with scTagByte := some 0x0A }) (fun t => (t.sc.present, t.status)) =
      some (some false, 0) := by decide

/-- V44. -/
theorem test_scEnc_v44 :
    look (exec .scEnc (withSc regsSc0)) (fun t => (t.scTagByte, spOperand t)) =
      some (some 0, some [0x87, 0xD6, 0x12, 0x00, 0x09, 0x04, 0x03, 0x02]) := by decide

/-- V74: `SC.tag` 12 has no variant. -/
theorem test_scEnc_v74 :
    look (exec .scEnc (withSc { present := some true, tag := some 12 }))
      (fun t => (t.fault, t.status, t.scTagByte, t.sp)) = some (true, 7, none, []) := by decide

/-- V57: an unknown tag, payload ignored. -/
theorem test_scDec_v57 :
    look (exec .scDec { withSc regsSc0 with scTagByte := some 0x0A }) (fun t => (t.sc, t.status)) =
      some ({ present := some false }, 0) := by decide

/-- V43. -/
theorem test_scDec_v43 :
    look (exec .scDec { withSp [2, 1, 4, 3, 6, 5, 7, 0] with scTagByte := some 5 })
      (fun t => (t.sc.tag, t.sc.accRoll, t.sc.accValid)) = some (some 5, some 0x0506, some true) := by decide

/-- V45. -/
def regsTag0 : ScRegs := {
      fullTime := some 0xFFFFFFFF, numSatellites := some 255, positionMode := some 0,
      velocityMode := some 0, orientationMode := some 0 }

/-- V45. -/
theorem test_sc0Dec :
    look (exec .sc0Dec (withSp [0xFF, 0xFF, 0xFF, 0xFF, 0xFF, 0x00, 0x00, 0x00])) (fun t => t.sc) =
      some regsTag0 := by decide

/-- V45. -/
theorem test_sc0Enc :
    look (exec .sc0Enc (withSc regsTag0)) spOperand =
      some (some [0xFF, 0xFF, 0xFF, 0xFF, 0xFF, 0x00, 0x00, 0x00]) := by decide

/-- V46. -/
def regsTag1 : ScRegs := {
      innovPosX := some ⟨5, true⟩, innovPosY := some ⟨127, true⟩, innovPosZ := some ⟨0, false⟩,
      innovVelX := some ⟨64, false⟩, innovVelY := some ⟨1, true⟩, innovVelZ := some ⟨2, false⟩,
      innovPitch := some ⟨100, true⟩, innovHeading := some ⟨33, true⟩ }

/-- V46. -/
theorem test_sc1Dec :
    look (exec .sc1Dec (withSp [0x0B, 0xFF, 0x00, 0x80, 0x03, 0x04, 0xC9, 0x43])) (fun t => t.sc) =
      some regsTag1 := by decide

/-- V46. -/
theorem test_sc1Enc :
    look (exec .sc1Enc (withSc regsTag1)) spOperand =
      some (some [0x0B, 0xFF, 0x00, 0x80, 0x03, 0x04, 0xC9, 0x43]) := by decide

/-- V47. -/
def regsTag2 : ScRegs := {
      charsReceived := some 0x1234, packetsReceived := some 65535, charsNotUnderstood := some 1,
      packetsNotUsed := some 0x8000 }

/-- V47. -/
theorem test_sc2Dec :
    look (exec .sc2Dec (withSp [0x34, 0x12, 0xFF, 0xFF, 0x01, 0x00, 0x00, 0x80])) (fun t => t.sc) =
      some regsTag2 := by decide

/-- V47. -/
theorem test_sc2Enc :
    look (exec .sc2Enc (withSc regsTag2)) spOperand =
      some (some [0x34, 0x12, 0xFF, 0xFF, 0x01, 0x00, 0x00, 0x80]) := by decide

/-- V49. -/
def regsTag3 : ScRegs := {
      accNorth := some 15, accEast := some 20, accDown := some 3000, age := some 150,
      deviceStatus := some 255, accValid := some false, deviceStatusValid := some false }

/-- V49. -/
theorem test_sc3Dec :
    look (exec .sc3Dec (withSp [0x0F, 0x00, 0x14, 0x00, 0xB8, 0x0B, 0x96, 0xFF])) (fun t => t.sc) =
      some regsTag3 := by decide

/-- V49. -/
theorem test_sc3Enc :
    look (exec .sc3Enc (withSc regsTag3)) spOperand =
      some (some [0x0F, 0x00, 0x14, 0x00, 0xB8, 0x0B, 0x96, 0xFF]) := by decide

/-- V50. -/
def regsTag4 : ScRegs := {
      velAcc0 := some 65535, velAcc1 := some 0, velAcc2 := some 258, age := some 149,
      processingMethod := some 2, accValid := some true }

/-- V50. -/
theorem test_sc4Dec :
    look (exec .sc4Dec (withSp [0xFF, 0xFF, 0x00, 0x00, 0x02, 0x01, 0x95, 0x02])) (fun t => t.sc) =
      some regsTag4 := by decide

/-- V50. -/
theorem test_sc4Enc :
    look (exec .sc4Enc (withSc regsTag4)) spOperand =
      some (some [0xFF, 0xFF, 0x00, 0x00, 0x02, 0x01, 0x95, 0x02]) := by decide

/-- V43. -/
def regsTag5 : ScRegs := {
      accHeading := some 258, accPitch := some 772, accRoll := some 1286, age := some 7,
      reserved := some 0, accValid := some true }

/-- V43. -/
theorem test_sc5Dec :
    look (exec .sc5Dec (withSp [0x02, 0x01, 0x04, 0x03, 0x06, 0x05, 0x07, 0x00])) (fun t => t.sc) =
      some regsTag5 := by decide

/-- V43. -/
theorem test_sc5Enc :
    look (exec .sc5Enc (withSc regsTag5)) spOperand =
      some (some [0x02, 0x01, 0x04, 0x03, 0x06, 0x05, 0x07, 0x00]) := by decide

/-- V51. -/
def regsTag6 : ScRegs := {
      val0 := some 0xFFFF, val1 := some 32767, val2 := some 0x8000, age := some 200,
      countL1 := some 7, countL2 := some 12 }

/-- V51. -/
theorem test_sc6Dec :
    look (exec .sc6Dec (withSp [0xFF, 0xFF, 0xFF, 0x7F, 0x00, 0x80, 0xC8, 0xC7])) (fun t => t.sc) =
      some regsTag6 := by decide

/-- V51. -/
theorem test_sc6Enc :
    look (exec .sc6Enc (withSc regsTag6)) spOperand =
      some (some [0xFF, 0xFF, 0xFF, 0x7F, 0x00, 0x80, 0xC8, 0xC7]) := by decide

/-- V52. -/
def regsTag7 : ScRegs := {
      val0 := some 100, val1 := some 0xFF9C, val2 := some 0, age := some 0,
      countL1 := some 15, countL2 := some 0 }

/-- V52. -/
theorem test_sc7Dec :
    look (exec .sc7Dec (withSp [0x64, 0x00, 0x9C, 0xFF, 0x00, 0x00, 0x00, 0x0F])) (fun t => t.sc) =
      some regsTag7 := by decide

/-- V52. -/
theorem test_sc7Enc :
    look (exec .sc7Enc (withSc regsTag7)) spOperand =
      some (some [0x64, 0x00, 0x9C, 0xFF, 0x00, 0x00, 0x00, 0x0F]) := by decide

/-- V53. -/
def regsTag8 : ScRegs := {
      val0 := some 0xFFFE, val1 := some 2, val2 := some 0xFED4, age := some 1,
      countL1 := some 0, countL2 := some 15 }

/-- V53. -/
theorem test_sc8Dec :
    look (exec .sc8Dec (withSp [0xFE, 0xFF, 0x02, 0x00, 0xD4, 0xFE, 0x01, 0xF0])) (fun t => t.sc) =
      some regsTag8 := by decide

/-- V53. -/
theorem test_sc8Enc :
    look (exec .sc8Enc (withSc regsTag8)) spOperand =
      some (some [0xFE, 0xFF, 0x02, 0x00, 0xD4, 0xFE, 0x01, 0xF0]) := by decide

/-- V54. -/
def regsTag9 : ScRegs := {
      val0 := some 4660, val1 := some 0xEDCC, val2 := some 1, age := some 255,
      countL1 := some 9, countL2 := some 6 }

/-- V54. -/
theorem test_sc9Dec :
    look (exec .sc9Dec (withSp [0x34, 0x12, 0xCC, 0xED, 0x01, 0x00, 0xFF, 0x69])) (fun t => t.sc) =
      some regsTag9 := by decide

/-- V54. -/
theorem test_sc9Enc :
    look (exec .sc9Enc (withSc regsTag9)) spOperand =
      some (some [0x34, 0x12, 0xCC, 0xED, 0x01, 0x00, 0xFF, 0x69]) := by decide

/-- V57. -/
theorem test_scNoneDec :
    look (exec (.scNoneDec 0xFF) (withSc regsSc0)) (fun t => t.sc) = some { present := some false } := by decide

/-- V56. -/
theorem test_scNoneEnc :
    look (exec .scNoneEnc State.reset) (fun t => (t.scTagByte, spOperand t)) =
      some (some 0xFF, some (List.replicate 8 0)) := by decide

/-! ### The scanner -/

/-- R210. -/
theorem test_scanInit :
    look (exec .scanInit { withSb [1] with scanPos := 9, outq := [.structureB ⟨11, true⟩] })
      (fun t => (t.scanPos, t.outq)) = some (0, []) := by decide

/-- `SCAN.STEP` on `00 E7 00×8` at 1: 9 bytes remain. -/
theorem test_scanStep_v68 :
    look (exec .scanStep { withSb ([0, 0xE7] ++ List.replicate 8 0) with scanPos := 1 })
      (fun t => (t.scanPos, t.scanOut)) = some (1, some .stopShort) := by decide +kernel

/-- R213, R214: a candidate whose byte 21 is 8 is rejected, and the packet of V63 behind it is found. -/
theorem test_scan_reject :
    look (exec .scan (withSb ([0xE7] ++ List.replicate 20 0 ++ [8] ++ packetB)))
      (fun t => (t.outq, t.scanPos, t.scanOut)) =
      some ([.structureB ⟨11, true⟩], 94, some .stopEnd) := by decide +kernel

/-- V69: 71 bytes are no candidate. -/
theorem test_scan_v69 :
    look (exec .scan (withSb (packetB.take 71))) (fun t => (t.outq, t.scanPos, t.scanOut, t.status)) =
      some ([], 0, some .stopShort, 0) := by decide +kernel

/-! ### Witnesses: states and operands that meet the hypotheses of the statements -/

/-- For the statements whose only hypothesis is `FAULT = 0`. -/
theorem witness_fault_clear : State.reset.fault = false := rfl

/-- `IllegalCodesViolate`: the codes at the ends of both ranges. -/
theorem witness_IllegalCodesViolate :
    ((0 : BitVec 4) = 0) ∧ 0xB ≤ (0xB : BitVec 4).toNat ∧ 0xB ≤ (0xF : BitVec 4).toNat ∧
    State.reset.fault = false := by decide

/-- `DispatchBytesSelectRows`: the ends of the unregistered tags. -/
theorem witness_DispatchBytesSelectRows :
    10 ≤ (10 : Byte).toNat ∧ 10 ≤ (254 : Byte).toNat ∧ (254 : Byte).toNat ≤ 254 ∧
    10 ≤ (255 : Byte).toNat := by decide

/-- `DecodeAndEncodeAgree`: both directions, at the ends of the checksum's range. -/
theorem witness_DecodeAndEncodeAgree :
    (Instr.csum 0 71).wellFormed = true ∧ (Instr.csum 71 71).wellFormed = true ∧
    (Instr.aDec 22).wellFormed = true ∧ (Instr.scNoneDec 10).wellFormed = true ∧
    decode (.sub (.csum 0 71)) = .ok (.csum 0 71) := by decide

/-- `StepRunsDecodedOperation`: a command and a sub-operation. -/
theorem witness_StepRunsDecodedOperation :
    Instr.pktDec.wellFormed = true ∧ Instr.bDec.wellFormed = true ∧
    ({ State.reset with host := [.issue (.cmd 4)] } : State).host = .issue (.cmd 4) :: [] ∧
    decode (.cmd 4) = .ok .pktDec ∧
    ({ State.reset with host := [.issue (.nav 11)] } : State).host = .issue (.nav 11) :: [] ∧
    (∀ op, Selector.nav 11 ≠ .cmd op) ∧ decode (.nav 11) = .ok .bDec :=
  ⟨rfl, rfl, rfl, rfl, rfl, fun _ h => Selector.noConfusion h, rfl⟩

/-- A state with `FAULT` set and a reset to come. -/
def faultedWithReset : State := { startP1.violated with host := [.reset 2 7] }

/-- `ResetEventRestoresResetState`. -/
theorem witness_ResetEventRestoresResetState : faultedWithReset.host = .reset 2 7 :: [] := rfl

/-- `HostScriptsNeverStop`: a script of every kind of event the host can cause. -/
theorem witness_HostScriptsNeverStop :
    Instr.scan.wellFormed = true ∧
    (∀ e ∈ ([.write (.pbLen 0), .issue (.cmd 4), .issue (.cmd 0), .reset 0 0] : List HostEvent),
      e.isHosts = true) := by decide

/-- `FaultIsStickyUntilReset`: an operation while `FAULT` is set, one that sets it, and a step that clears
it. -/
theorem witness_FaultIsStickyUntilReset :
    startP1.violated.fault = true ∧ Instr.enc24.wellFormed = true ∧
    (∃ t, exec (.illegal 0) startP1 = .next t ∧ t.fault = true) ∧ startP1.fault = false ∧
    faultedWithReset.fault = true ∧ (∃ t, step faultedWithReset = .next t ∧ t.fault = false) :=
  ⟨rfl, rfl, ⟨_, rfl, rfl⟩, rfl, rfl, ⟨_, rfl, rfl⟩⟩

/-- A state with a packet buffer, a stream and a command to come. -/
def busy : State :=
  { State.reset with
    pb := [(0, 0xE7), (71, 0)], sb := [(0, 0xE7), (1000, 1)], pbLen := some 10,
    host := [.issue (.cmd 4)] }

/-- `StepKeepsInvariant`, `ConfigurationChangesOnlyAtReset`: a good state with a step. -/
theorem witness_StepKeepsInvariant : busy.Inv ∧ ∃ t, step busy = .next t ∧ t.status = 1 :=
  ⟨⟨by decide, by decide, by decide, by decide, by decide, by decide, by decide⟩, _, rfl, rfl⟩

/-- `OnlyEncodersWriteBuffers`. -/
theorem witness_OnlyEncodersWriteBuffers :
    ∃ t, exec .i24Pack (fxN 1) = .next t ∧ t.fx.b0 = some 1 := ⟨_, rfl, rfl⟩

/-- `ValuelessOperandsViolate`: the operands of each clause. -/
theorem witness_ValuelessOperandsViolate :
    State.reset.fault = false ∧ (fxN 1).fx.v = none ∧ (fxN 1).fx.b2 = none ∧
    (fxVS 0 0).fx.n = none ∧ State.reset.pk.kind = none ∧
    ({ State.reset with pk := { kind := some .A, navigationStatus := some 4 } } : State).pk.kind = some .A ∧
    ({ State.reset with pk := { kind := some .A, navigationStatus := some 4 } } : State).pk.time = none ∧
    (withPb (packetB.take 71 ++ [])).pb.read 71 = none ∧
    ({ withPb (packetB.take 71) with pbLen := some 72 } : State).pbLen = some 72 ∧
    channelOperand { present := some true } = none ∧ channelOperand {} = none ∧
    State.reset.scTagByte = none ∧
    ({ withSp [1, 2, 3, 4, 5, 6, 7] with scTagByte := some 9 } : State).scTagByte = some 9 ∧
    (9 : Byte).toNat ≤ 9 ∧ (withSp [1, 2, 3, 4, 5, 6, 7]).sp.read 7 = none ∧
    State.reset.sbLen = none ∧ (withSb []).sb.read 0 = none := by decide +kernel

/-- `NoHistoryReachesTheResults`: two states with unlike histories and the same operands. -/
theorem witness_NoHistoryReachesTheResults :
    startP1.fault = State.reset.fault ∧ startP1.num = State.reset.num ∧
    startP1.navPolicy = State.reset.navPolicy ∧ startP1.sb = State.reset.sb ∧
    startP1.sbLen = State.reset.sbLen ∧ startP1.sbMax = State.reset.sbMax ∧
    startP1.chkRejectMask = State.reset.chkRejectMask ∧ startP1.pb = State.reset.pb ∧
    startP1.pbLen = State.reset.pbLen ∧ startP1.scTagByte = State.reset.scTagByte ∧
    startP1.sp = State.reset.sp ∧ startP1.pk ≠ State.reset.pk ∧
    (∃ t, exec .pktDec { startP1 with pbLen := some 0 } = .next t ∧ t.fault = false) ∧
    (∃ t, exec .scDec { startP1 with scTagByte := some 0xFF } = .next t ∧ t.fault = false) ∧
    (∃ t, exec .scan { startP1 with sbLen := some 0 } = .next t ∧ t.fault = false) :=
  ⟨rfl, rfl, rfl, rfl, rfl, rfl, rfl, rfl, rfl, rfl, rfl, by decide, ⟨_, rfl, rfl⟩, ⟨_, rfl, rfl⟩,
    ⟨_, rfl, rfl⟩⟩

/-- `PackWritesLowTwentyFourBits`, `PackUnpackLaws`: at the ends of the int24 range. -/
theorem witness_PackWritesLowTwentyFourBits :
    (fxN 0xFF800000).fault = false ∧ (fxN 0xFF800000).fx.n = some 0xFF800000 ∧
    (-2 ^ 23 ≤ (0xFF800000 : I32).toInt) ∧ ((0x007FFFFF : I32).toInt < 2 ^ 23) := by decide

/-- `UnpackSignExtends`, `DecodeFieldResult`, `FieldCodecsAreCompositions`: three bytes and a scale. -/
theorem witness_UnpackSignExtends :
    (fxBS 0xFF 0xFF 0x7F f32One).fault = false ∧ (fxBS 0xFF 0xFF 0x7F f32One).fx.b0 = some 0xFF ∧
    (fxBS 0xFF 0xFF 0x7F f32One).fx.b1 = some 0xFF ∧ (fxBS 0xFF 0xFF 0x7F f32One).fx.b2 = some 0x7F ∧
    (fxBS 0xFF 0xFF 0x7F f32One).fx.s = some f32One ∧
    (fxBytes (fxBS 0xFF 0xFF 0x7F f32One).fx).isSome = true := by decide

/-- `EncodeFieldResult`, `FieldCodecsAreCompositions`: a value and a scale that `QUANT` answers, and one that
it answers `OUT` for although the quotient is 0 (log entry 25). -/
theorem witness_EncodeFieldResult :
    (fxVS 0x4531A000 f32One).fault = false ∧ (fxVS 0x4531A000 f32One).fx.v = some 0x4531A000 ∧
    (fxVS 0x4531A000 f32One).fx.s = some f32One ∧
    f32IsFinite 0x4531A000 = true ∧ f32IsFinite f32One = true ∧ f32Val f32One ≠ 0 ∧
    (numOf .reference).rint ((numOf .reference).div 0x4531A000 f32One) = some 2842 ∧
    refRint (refDiv 0x4531A000 0x7F800000) = some 0 ∧
    quantOf (numOf .reference) 0x4531A000 0x7F800000 = none := by
  refine ⟨rfl, rfl, rfl, by decide, by decide, ?_, by decide +kernel, by decide +kernel,
    by decide +kernel⟩
  rw [Ne, f32Val_eq_zero, f32Mag_one]
  norm_num

/-- `FieldCodecsAreCompositions`: an integer and a scale. -/
theorem witness_FieldCodecsAreCompositions :
    ({ State.reset with fx := { n := some 1, s := some f32One } } : State).fx.n = some 1 ∧
    ({ State.reset with fx := { n := some 1, s := some f32One } } : State).fx.s = some f32One := by
  decide

/-- `ScaleOneRoundTrip`: the least int24, -8388608.0; the numerics record is the reference one. -/
theorem witness_ScaleOneRoundTrip :
    (numOf (fxVS 0xCB000000 f32One).num).Admissible ∧ (fxVS 0xCB000000 f32One).fault = false ∧
    (fxVS 0xCB000000 f32One).fx.v = some 0xCB000000 ∧ (fxVS 0xCB000000 f32One).fx.s = some f32One ∧
    f32IsFinite 0xCB000000 = true ∧ f32Val 0xCB000000 = ((-8388608 : Int) : ℚ) ∧
    -2 ^ 23 ≤ (-8388608 : Int) ∧ (-8388608 : Int) < 2 ^ 23 := by
  refine ⟨reference_admissible, rfl, rfl, rfl, by decide, ?_, by decide, by decide⟩
  have h1 : f32Neg 0xCB000000 = true := by decide
  have h2 : f32Mag 0xCB000000 = 2 ^ 23 * 2 ^ 149 := by decide +kernel
  rw [f32Val, h1, h2]
  norm_num

/-- `ReferenceArithmeticIsNearest`: a product and a quotient below the bound, and one of each past it. -/
theorem witness_ReferenceArithmeticIsNearest :
    f32IsFinite f32One = true ∧ f32IsFinite 0x7F000000 = true ∧ f32IsFinite 0x40000000 = true ∧
    f32IsFinite 0x3F000000 = true ∧ f32Val f32One ≠ 0 ∧ f32Val 0x3F000000 ≠ 0 ∧
    |f32Val f32One * f32Val f32One| < 2 ^ 128 - 2 ^ 103 ∧
    2 ^ 128 - 2 ^ 103 ≤ |f32Val 0x7F000000 * f32Val 0x40000000| ∧
    |f32Val f32One / f32Val f32One| < 2 ^ 128 - 2 ^ 103 ∧
    2 ^ 128 - 2 ^ 103 ≤ |f32Val 0x7F000000 / f32Val 0x3F000000| := by
  have e : ∀ (x : F32) (k : Nat), f32Neg x = false → f32Mag x * 2 = 2 ^ k * 2 ^ 149 →
      f32Val x = 2 ^ k / 2 := fun x k h1 h2 => by
    have h3 : (f32Mag x : ℚ) * 2 = 2 ^ k * 2 ^ 149 := by exact_mod_cast h2
    rw [f32Val_eq, h1, eq_div_iff two_ne_zero, if_neg Bool.false_ne_true, one_mul,
      div_mul_eq_mul_div, h3, mul_div_assoc, div_self (by positivity), mul_one]
  have h1 := e f32One 1 f32One_neg (by decide +kernel)
  have h2 := e 0x7F000000 128 (by decide) (by decide +kernel)
  have h3 := e 0x40000000 2 (by decide) (by decide +kernel)
  have h4 := e 0x3F000000 0 (by decide) (by decide +kernel)
  refine ⟨by decide, by decide, by decide, by decide, ?_, ?_, ?_, ?_, ?_, ?_⟩ <;>
    simp only [h1, h2, h3, h4] <;> norm_num

/-- `ReferenceConversionsRound`: a tie, and the largest integer of the exact range. -/
theorem witness_ReferenceConversionsRound :
    f32IsFinite 0xC0200000 = true ∧ refRint 0xC0200000 = some 0xFFFFFFFD ∧
    refRint 0x7F800000 = none ∧ (0x01000000 : I32).toInt.natAbs ≤ 2 ^ 24 := by decide +kernel

/-- `RouteFollowsPolicy`. -/
theorem witness_RouteFollowsPolicy :
    (withPb packetNav8).fault = false ∧ (withPb packetNav8).pb.read 21 = some 8 := by decide +kernel

/-- `ChecksumIsByteSum`: the longest range. -/
theorem witness_ChecksumIsByteSum :
    (withPb packetZero).fault = false ∧ 0 ≤ 71 ∧ 71 < 72 ∧ packetZero.length = 71 + 1 - 0 ∧
    (∀ k, k < packetZero.length → (withPb packetZero).pb.read (0 + k) = packetZero[k]?) := by
  decide +kernel

/-- `ChecksumLaws`: the last byte of a range. -/
theorem witness_ChecksumLaws :
    1 ≤ 21 ∧ 21 ≤ 21 ∧ 21 < packetP1.length ∧ packetP1[21]? ≠ some 5 ∧ packetP1.length = 72 := by
  decide +kernel

/-- `EncodeStructureALayout`, `BodyEncodersWriteTheBody`, `PacketRoundTrip`: the record of P1. -/
theorem witness_EncodeStructureALayout :
    ∃ a, structureAOperand startP1.pk startP1.sc = some a ∧ startP1.fault = false ∧
      startP1.pk.kind = some .A ∧ 72 ≤ 72 ∧
      a.navigationStatus ∈ ([0, 1, 2, 3, 4, 5, 6, 7, 10, 20, 21, 22] : List Byte) ∧
      (∃ t, exec .pktEnc { startP1 with pk := { startP1.pk with kind := some .A } } = .next t) :=
  ⟨_, rfl, rfl, rfl, le_rfl, by decide, _, rfl⟩

/-- `EncodeStructureBLayout`, `BodyEncodersWriteTheBody`. -/
theorem witness_EncodeStructureBLayout :
    ∃ s : State, s.fault = false ∧ s.pk.kind = some .B ∧ s.pk.navigationStatus = some 11 :=
  ⟨{ State.reset with pk := { kind := some .B, navigationStatus := some 11 } }, rfl, rfl, rfl⟩

/-- `EncodeIgnoresChecksumFlags`: two packets that differ in a flag. -/
theorem witness_EncodeIgnoresChecksumFlags :
    Packet.semEq (.structureB ⟨11, true⟩) (.structureB ⟨11, false⟩) = true := by decide

/-- `DecodeErrorsInOrder`: each of the three, at the boundary of the length. -/
theorem witness_DecodeErrorsInOrder :
    (withPb (packetZero.take 71)).pbLen = some 71 ∧ 71 < 72 ∧
    (withPb packetNav8).pbLen = some 72 ∧ 72 ≤ 72 ∧ pbOperand (withPb packetNav8) = some packetNav8 ∧
    byteAt packetNav8 0 = 0xE7 ∧ byteAt packetNav8 21 ≠ 11 ∧
    byteAt packetNav8 21 ∉ ([0, 1, 2, 3, 4, 5, 6, 7, 10, 20, 21, 22] : List Byte) ∧
    (withPb packetNav8).navPolicy ≠ 1 ∧ (withPb packetNav8).navPolicy ≠ 2 ∧
    pbOperand (withPb (List.replicate 72 0)) = some (List.replicate 72 0) ∧
    byteAt (List.replicate 72 0) 0 ≠ 0xE7 := by decide +kernel

/-- `DecodeStructureAFields`, `DecodeRunsTheRoutedRow`: P1's packet, and an out-of-set one under
`ACCEPT_A`. -/
theorem witness_DecodeStructureAFields :
    (withPb packetP1).fault = false ∧ (withPb packetP1).pbLen = some 72 ∧
    pbOperand (withPb packetP1) = some packetP1 ∧ byteAt packetP1 0 = 0xE7 ∧
    byteAt packetP1 21 ∈ ([0, 1, 2, 3, 4, 5, 6, 7, 10, 20, 21, 22] : List Byte) ∧
    decode (.nav (byteAt packetP1 21)) = .ok (.aDec 4) ∧
    routeOf (withPb packetP1).navPolicy (byteAt packetP1 21) ≠ .reject ∧
    byteAt packetNav8 21 ≠ 11 ∧ ({ withPb packetNav8 with navPolicy := 1 } : State).navPolicy = 1 := by
  decide +kernel

/-- `DecodeStructureBFields`: V63's packet, and an out-of-set one under `ROUTE_B`. -/
theorem witness_DecodeStructureBFields :
    (withPb packetB).fault = false ∧ (withPb packetB).pbLen = some 72 ∧
    pbOperand (withPb packetB) = some packetB ∧ byteAt packetB 0 = 0xE7 ∧ byteAt packetB 21 = 11 ∧
    byteAt packetNav8 21 ∉ ([0, 1, 2, 3, 4, 5, 6, 7, 10, 20, 21, 22] : List Byte) ∧
    ({ withPb packetNav8 with navPolicy := 2 } : State).navPolicy = 2 := by decide +kernel

/-- `RoutedRowsOnTheirOwn`: each strap value, and a body whose offsets 0 and 71 hold no value. -/
theorem witness_RoutedRowsOnTheirOwn :
    packetP1.length = 72 ∧ (∀ k, k ≤ 70 → 1 ≤ k → bodyP1.pb.read k = packetP1[k]?) ∧
    bodyP1.pb.read 0 = none ∧ bodyP1.pb.read 71 = none ∧
    ({ bodyP1 with navPolicy := 1 } : State).navPolicy = 1 ∧
    ({ bodyP1 with navPolicy := 2 } : State).navPolicy = 2 ∧
    ({ bodyP1 with navPolicy := 3 } : State).navPolicy ≠ 1 ∧
    ({ bodyP1 with navPolicy := 3 } : State).navPolicy ≠ 2 :=
  ⟨rfl, by decide +kernel, by decide +kernel, by decide +kernel, rfl, rfl, by decide, by decide⟩

/-- `PacketRoundTrip`: `QUANT` answers for each of P1's twelve fields, with the integers P1 lists. -/
theorem witness_PacketRoundTrip :
    quantOf (numOf startP1.num) 0x3E9182AA 0x38D1B717 = some 2842 ∧
    quantOf (numOf startP1.num) 0xC11A212D 0x38D1B717 = some (BitVec.ofInt 32 (-96331)) ∧
    quantOf (numOf startP1.num) 0x411CE80A 0x38D1B717 = some 98067 ∧
    quantOf (numOf startP1.num) 0xBBB923A3 0x3727C5AC = some (BitVec.ofInt 32 (-565)) ∧
    quantOf (numOf startP1.num) 0 0x3727C5AC = some 0 ∧
    quantOf (numOf startP1.num) 0x3C23D70A 0x3727C5AC = some 1000 ∧
    quantOf (numOf startP1.num) 0x41200000 0x38D1B717 = some 100000 ∧
    quantOf (numOf startP1.num) 0xBF000000 0x38D1B717 = some (BitVec.ofInt 32 (-5000)) ∧
    quantOf (numOf startP1.num) 0x38D1B717 0x38D1B717 = some 1 ∧
    quantOf (numOf startP1.num) 0x3FC00000 0x358637BD = some 1500000 ∧
    quantOf (numOf startP1.num) 0xBE800000 0x358637BD = some (BitVec.ofInt 32 (-250000)) ∧
    quantOf (numOf startP1.num) 0x358637BD 0x358637BD = some 1 := by decide +kernel

/-- `ChecksumSensitivity`: P1's packet decodes with all three flags true; a byte at each end. -/
theorem witness_ChecksumSensitivity :
    (∃ t, exec .pktDec (withPb packetP1) = .next t ∧
      (t.fault, t.pk.kind, t.pk.checksum1Valid, t.pk.checksum2Valid, t.pk.checksum3Valid) =
        (false, some .A, some true, some true, some true)) ∧
    (withPb packetP1).fault = false ∧ (withPb packetP1).pbLen = some 72 ∧
    (withPb packetP1).pb.read 1 = some 0xD2 ∧ (withPb packetP1).pb.read 22 = some 0x7E ∧
    (withPb packetP1).pb.read 21 = some 4 ∧ (5 : Byte) ≠ 4 ∧
    (5 : Byte) ∈ ([0, 1, 2, 3, 4, 5, 6, 7, 10, 20, 21, 22] : List Byte) ∧
    (withPb packetP1).pb.read 61 = some 0xDB ∧ (withPb packetP1).pb.read 71 = some 0x37 ∧
    (1 : Byte) ≠ 0x37 :=
  ⟨exists_next (by decide +kernel), rfl, rfl, by decide +kernel, by decide +kernel,
    by decide +kernel, by decide, by decide, by decide +kernel, by decide +kernel, by decide⟩

/-- `ZeroedPacketDecodesToZero`: the packet of S5. -/
theorem witness_ZeroedPacketDecodesToZero :
    (numOf (withPb packetZero).num).Admissible ∧ (withPb packetZero).fault = false ∧
    (withPb packetZero).pbLen = some 72 ∧ (withPb packetZero).pb.read 0 = some 0xE7 ∧
    (∀ a, a < 72 → 1 ≤ a → (withPb packetZero).pb.read a = some 0) :=
  ⟨reference_admissible, rfl, rfl, by decide +kernel, by decide +kernel⟩

/-- `LookupFindsRegisteredTags`, `DecodeChannelResult`: a registered tag and an unknown one, at the
boundary. -/
theorem witness_LookupFindsRegisteredTags :
    ({ withSp [1, 2, 3, 4, 5, 6, 7, 8] with scTagByte := some 9 } : State).scTagByte = some 9 ∧
    (9 : Byte).toNat ≤ 9 ∧ spOperand (withSp [1, 2, 3, 4, 5, 6, 7, 8]) = some [1, 2, 3, 4, 5, 6, 7, 8] ∧
    decode (.tagDec 9) = .ok .sc9Dec ∧ 10 ≤ (10 : Byte).toNat ∧
    ({ State.reset with scTagByte := some 10 } : State).scTagByte = some 10 := by decide

/-- `DecodeRowsOfTagsZeroToTwo`, `DecodeRowsOfTagsThreeToFive`, `DecodeRowsOfTagsSixToNine`. -/
theorem witness_DecodeRows :
    (withSp [1, 2, 3, 4, 5, 6, 7, 8]).fault = false ∧
    spOperand (withSp [1, 2, 3, 4, 5, 6, 7, 8]) = some [1, 2, 3, 4, 5, 6, 7, 8] ∧
    Instr.sc9Dec ∈ [Instr.sc6Dec, .sc7Dec, .sc8Dec, .sc9Dec] := by decide

/-- `EncodeRowsOfTagsZeroToTwo`: the registers of V45, V46 and V47 hold every field. -/
theorem witness_EncodeRowsOfTagsZeroToTwo :
    regsTag0.fullTime = some 0xFFFFFFFF ∧ regsTag0.numSatellites = some 255 ∧
    regsTag0.positionMode = some 0 ∧ regsTag0.velocityMode = some 0 ∧
    regsTag0.orientationMode = some 0 ∧
    regsTag1.innovPosX = some ⟨5, true⟩ ∧ regsTag1.innovPosY = some ⟨127, true⟩ ∧
    regsTag1.innovPosZ = some ⟨0, false⟩ ∧ regsTag1.innovVelX = some ⟨64, false⟩ ∧
    regsTag1.innovVelY = some ⟨1, true⟩ ∧ regsTag1.innovVelZ = some ⟨2, false⟩ ∧
    regsTag1.innovPitch = some ⟨100, true⟩ ∧ regsTag1.innovHeading = some ⟨33, true⟩ ∧
    regsTag2.charsReceived = some 0x1234 ∧ regsTag2.packetsReceived = some 65535 ∧
    regsTag2.charsNotUnderstood = some 1 ∧ regsTag2.packetsNotUsed = some 0x8000 := by decide

/-- `EncodeRowsOfTagsThreeToFive`: the registers of V49, V50 and V43. -/
theorem witness_EncodeRowsOfTagsThreeToFive :
    regsTag3.age = some 150 ∧ regsTag3.accNorth = some 15 ∧ regsTag3.accEast = some 20 ∧
    regsTag3.accDown = some 3000 ∧ regsTag3.deviceStatus = some 255 ∧
    regsTag4.age = some 149 ∧ regsTag4.velAcc0 = some 65535 ∧ regsTag4.velAcc1 = some 0 ∧
    regsTag4.velAcc2 = some 258 ∧ regsTag4.processingMethod = some 2 ∧
    regsTag5.age = some 7 ∧ regsTag5.accHeading = some 258 ∧ regsTag5.accPitch = some 772 ∧
    regsTag5.accRoll = some 1286 ∧ regsTag5.reserved = some 0 := by decide

/-- `EncodeRowsOfTagsSixToNine`: the registers of V51. -/
theorem witness_EncodeRowsOfTagsSixToNine :
    regsTag6.val0 = some 0xFFFF ∧ regsTag6.val1 = some 32767 ∧ regsTag6.val2 = some 0x8000 ∧
    regsTag6.age = some 200 ∧ regsTag6.countL1 = some 7 ∧ regsTag6.countL2 = some 12 ∧
    Instr.sc6Enc ∈ [Instr.sc6Enc, .sc7Enc, .sc8Enc, .sc9Enc] := by decide

/-- `EncodeChannelResult`: no status channel, and the variant of V44. -/
theorem witness_EncodeChannelResult :
    (withSc { present := some false }).sc.present = some false ∧ regsSc0.present = some true ∧
    regsSc0.tag = some 0 ∧ (variantOperand regsSc0 0).isSome = true := by decide

/-- `TagWithoutVariantViolates`: the first tag without a variant. -/
theorem witness_TagWithoutVariantViolates :
    (withSc { present := some true, tag := some 10 }).fault = false ∧
    (withSc { present := some true, tag := some 10 }).sc.present = some true ∧
    (withSc { present := some true, tag := some 10 }).sc.tag = some 10 ∧ 10 ≤ (10 : BitVec 4).toNat ∧
    ({ withSc { present := some true, tag := some 10 } with pk := { kind := some .A } } : State).pk.kind =
      some .A := by decide

/-- `PayloadRoundTrip`: a registered tag's payload, and the first unknown tag. -/
theorem witness_PayloadRoundTrip :
    (9 : Byte).toNat ≤ 9 ∧ 10 ≤ (10 : Byte).toNat ∧ ([1, 2, 3, 4, 5, 6, 7, 8] : List Byte).length = 8 := by decide

/-- `ScanInitResult`: one byte past `SB_MAX`, exactly `SB_MAX`, and no bound. -/
theorem witness_ScanInitResult :
    (withSb [1]).fault = false ∧ (withSb [1]).sbLen = some 1 ∧
    ({ withSb [1] with sbMax := some 0 } : State).sbMax = some 0 ∧ 0 < 1 ∧
    (∀ max, ({ withSb [1] with sbMax := some 1 } : State).sbMax = some max → 1 ≤ max) ∧
    (∀ max, (withSb [1]).sbMax = some max → 1 ≤ max) :=
  ⟨rfl, rfl, rfl, by decide, fun _ h => by cases h; exact le_rfl, fun _ h => by cases h⟩

/-- `ScanStepOutcomes`, `SyncTestResult`: a stream, and a byte 0 of the packet buffer. -/
theorem witness_ScanStepOutcomes :
    (withSb [0, 0xE7]).fault = false ∧ sbOperand (withSb [0, 0xE7]) = some [0, 0xE7] ∧
    sbOperand (withSb []) = some [] ∧ (withPb [0xE7]).pb.read 0 = some 0xE7 := by decide

/-- `AcceptanceTest`: a window of each clause. -/
theorem witness_AcceptanceTest :
    accepts (numOf .reference) 0 7 packetB = some (.structureB ⟨11, true⟩) ∧
    (accepts (numOf .reference) 0 7 packetP1).isSome = true ∧
    pktDecode (numOf .reference) 0 72 packetB = .ok (.structureB ⟨11, true⟩) ∧
    byteAt packetB 0 = 0xE7 ∧ ((2 : BitVec 2) = 1 ∨ (2 : BitVec 2) = 2) ∧
    (3 : BitVec 2) ≠ 1 ∧ (3 : BitVec 2) ≠ 2 :=
  ⟨by decide +kernel, by decide +kernel, rfl, by decide +kernel, .inr rfl, by decide, by decide⟩

/-- `ScanFindsScanFrom`, `ScanEndsWhereItStops`: a stream of 75 bytes, with a bound of just that. -/
theorem witness_ScanFindsScanFrom :
    ∃ (s : State) (sb : List Byte), s.fault = false ∧ sbOperand s = some sb ∧
      (∀ max, s.sbMax = some max → sb.length ≤ max) ∧
      ∃ t, exec .scan s = .next t ∧ t.fault = false :=
  ⟨{ withSb ([1, 2, 3] ++ packetB) with sbMax := some 75 }, [1, 2, 3] ++ packetB, rfl,
    by decide +kernel, fun _ h => by cases h; decide, exists_next (by decide +kernel)⟩

/-- `ScanOfConcatenatedPackets`: two packets, with a bound of just their length. -/
theorem witness_ScanOfConcatenatedPackets :
    ∃ (s : State) (found : List (List Byte × Packet)), s.fault = false ∧ found.length = 2 ∧
      (∀ f ∈ found, f.1.length = 72 ∧
        accepts (numOf s.num) s.navPolicy s.chkRejectMask f.1 = some f.2) ∧
      sbOperand s = some (found.map Prod.fst).flatten ∧
      (∀ max, s.sbMax = some max → 72 * found.length ≤ max) :=
  ⟨{ withSb (packetB ++ packetB) with sbMax := some 144 },
    [(packetB, .structureB ⟨11, true⟩), (packetB, .structureB ⟨11, true⟩)], rfl, rfl,
    by decide +kernel, by decide +kernel, fun _ h => by cases h; decide⟩

/-- `ScanSeeksOnePacket`: V68's surroundings, with a bound of just their length. -/
theorem witness_ScanSeeksOnePacket :
    ∃ (s : State) (before w after : List Byte) (pkt : Packet), s.fault = false ∧
      before.length = 5 ∧ after.length = 2 ∧ (∀ b ∈ before, b ≠ 0xE7) ∧ (∀ b ∈ after, b ≠ 0xE7) ∧
      w.length = 72 ∧ accepts (numOf s.num) s.navPolicy s.chkRejectMask w = some pkt ∧
      sbOperand s = some (before ++ w ++ after) ∧
      (∀ max, s.sbMax = some max → before.length + 72 + after.length ≤ max) :=
  ⟨{ withSb ([1, 2, 3, 4, 5] ++ packetB ++ [9, 9]) with sbMax := some 79 }, [1, 2, 3, 4, 5], packetB,
    [9, 9], .structureB ⟨11, true⟩, rfl, rfl, rfl, by decide, by decide, rfl, by decide +kernel,
    by decide +kernel, fun _ h => by cases h; decide⟩

/-- `ReferenceArithmeticOfSpecialOperands`: operands of each kind. -/
theorem witness_ReferenceArithmeticOfSpecialOperands :
    f32IsNaN 0x7FC00000 = true ∧ f32IsInf 0x7F800000 = true ∧ f32IsInf 0xFF800000 = true ∧
    f32IsFinite f32One = true ∧ f32Val f32One ≠ 0 ∧ f32IsFinite 0x80000000 = true ∧
    f32Val 0x80000000 = 0 := by
  refine ⟨by decide, by decide, by decide, by decide, ?_, by decide, ?_⟩
  · rw [Ne, f32Val_eq_zero, f32Mag_one]
    norm_num
  · rw [f32Val_eq_zero]
    decide

end Sys2Proof.Tests
end

section
/-! The statements about the decoder: the rows the command codes, byte 21 and byte 62 select, and the
codes that select no operation. -/

open Sys2Proof.Machine

namespace Sys2Proof.Laws

/-- An operation's row of the table gives back the operation from its selector. -/
theorem SelectorRow.Statement.decode_encode {i : Instr} (h : SelectorRow.Statement i)
    (hw : i.wellFormed = true) : decode (encode i) = .ok i := (h hw).2

end Sys2Proof.Laws

namespace Sys2Proof

open Laws

/-! One equation for each dispatch point. -/

@[simp] theorem decode_cmd (op : BitVec 4) : decode (.cmd op) = .ok (decodeCmd op) := rfl

@[simp] theorem decode_nav (b : Byte) : decode (.nav b) = .ok (decodeNav b) := rfl

@[simp] theorem decode_tagDec (b : Byte) : decode (.tagDec b) = .ok (decodeTag b) := rfl

theorem decode_tagEnc_of_none {b : Byte} (h : decodeEncTag b = none) :
    decode (.tagEnc b) = .error .noEncodeTag := by simp [decode, h]

/-! The command codes (R95, R96). -/

theorem wellFormed_illegal_iff (op : BitVec 4) :
    (Instr.illegal op).wellFormed = true ↔ op = 0 ∨ 0xB ≤ op.toNat := by
  simp [Instr.wellFormed]

/-- The last arm of `decodeCmd` is reached only by the codes of R96. -/
theorem decodeCmd_wellFormed (op : BitVec 4) : (decodeCmd op).wellFormed = true := by
  unfold decodeCmd
  split
  case h_11 =>
    rw [wellFormed_illegal_iff]
    simp only [imp_false] at *
    bv_omega
  all_goals rfl

theorem decode_cmd_eq_illegal_iff (op : BitVec 4) :
    decode (.cmd op) = .ok (.illegal op) ↔ op = 0 ∨ 0xB ≤ op.toNat := by
  rw [← wellFormed_illegal_iff]
  constructor
  · intro h
    have hi : decodeCmd op = .illegal op := Except.ok.inj h
    exact hi ▸ decodeCmd_wellFormed op
  · exact (SelectorRow.illegal op).decode_encode

/-- `ILLEGAL` is the violation itself, run through the gate. -/
theorem exec_illegal_eq_runOp (op : BitVec 4) (s : State) :
    exec (.illegal op) s = runOp s (some (raise .preconditionViolation s)) := rfl

theorem exec_illegal_of_fault_clear (op : BitVec 4) {s : State} (h : s.fault = false) :
    exec (.illegal op) s = .next s.violated := by
  rw [exec_illegal_eq_runOp, runOp_some h, raise_preconditionViolation_eq]

/-! Byte 21 and byte 62 (R90, R92, R93). -/

theorem decodeNav_eq_ite (b : Byte) :
    decodeNav b = if b = 11 then .bDec else if b ∈ navAllowed then .aDec b else .routeOutOfSet b := by
  simp only [decodeNav, navB, List.contains_iff_mem]

theorem decode_tagDec_of_unregistered {b : Byte} (h : 10 ≤ b.toNat) :
    decode (.tagDec b) = .ok (.scNoneDec b) :=
  (SelectorRow.scNoneDec b).decode_encode (by simpa [Instr.wellFormed] using h)

/-- The tags 10 to 254 match no arm of `decodeEncTag` but the last. -/
theorem decodeEncTag_eq_none {b : Byte} (hlo : 10 ≤ b.toNat) (hhi : b.toNat ≤ 254) :
    decodeEncTag b = none := by
  unfold decodeEncTag
  split
  case h_12 => rfl
  all_goals omega

/-- Settles O1: each code is the selector of its operation's row. -/
theorem commandCodesSelectOperations : Obligations.CommandCodesSelectOperations :=
  ⟨SelectorRow.enc24.decode_encode rfl, SelectorRow.dec24.decode_encode rfl,
    SelectorRow.pktEnc.decode_encode rfl, SelectorRow.pktDec.decode_encode rfl,
    SelectorRow.scEnc.decode_encode rfl, SelectorRow.scDec.decode_encode rfl,
    SelectorRow.scLookup.decode_encode rfl, SelectorRow.scan.decode_encode rfl,
    SelectorRow.i24Pack.decode_encode rfl, SelectorRow.i24Unpack.decode_encode rfl⟩

/-- Settles O2: `decodeCmd` answers only well-formed operations, and `ILLEGAL` raises the violation. -/
theorem illegalCodesViolate : Obligations.IllegalCodesViolate :=
  fun op => ⟨decode_cmd_eq_illegal_iff op, fun _ h => exec_illegal_of_fault_clear op h⟩

/-- Settles O3: byte 21 by the branches of `decodeNav`, byte 62 by the rows of the registered tags and
the two ranges of the others. -/
theorem dispatchBytesSelectRows : Obligations.DispatchBytesSelectRows := by
  refine ⟨fun b => ?nav, ?registered, fun b => decode_tagDec_of_unregistered,
    SelectorRow.scNoneEnc.decode_encode rfl,
    fun b hlo hhi => decode_tagEnc_of_none (decodeEncTag_eq_none hlo hhi)⟩
  case nav =>
    rw [decode_nav, decodeNav_eq_ite, navAllowed]
    simp only [apply_ite Except.ok]
  case registered =>
    exact ⟨SelectorRow.sc0Dec.decode_encode rfl, SelectorRow.sc1Dec.decode_encode rfl,
      SelectorRow.sc2Dec.decode_encode rfl, SelectorRow.sc3Dec.decode_encode rfl,
      SelectorRow.sc4Dec.decode_encode rfl, SelectorRow.sc5Dec.decode_encode rfl,
      SelectorRow.sc6Dec.decode_encode rfl, SelectorRow.sc7Dec.decode_encode rfl,
      SelectorRow.sc8Dec.decode_encode rfl, SelectorRow.sc9Dec.decode_encode rfl⟩

end Sys2Proof
end

section
/-! The statements about the fixed-point codec: what each of its commands leaves, and the laws of an encode
and a decode run one after the other. -/

open Sys2Proof.Machine

namespace Sys2Proof

/-! One operation after another. -/

@[simp] theorem andThen_next (t : State) (f : State → Host.Outcome State Fault Refusal) :
    andThen (.next t) f = f t := rfl

/-! The operands: three bytes that hold values, and the ones a pack leaves. -/

theorem fxBytes_of_some {r : FxRegs} {b0 b1 b2 : Byte} (h0 : r.b0 = some b0) (h1 : r.b1 = some b1)
    (h2 : r.b2 = some b2) : fxBytes r = some (b0, b1, b2) := by
  simp [fxBytes, h0, h1, h2]

@[simp] theorem fxBytes_putFxBytes (n : I32) (s : State) :
    fxBytes (putFxBytes n s).fx = some (packByte n 0, packByte n 1, packByte n 2) := rfl

/-! The state each command leaves, once its operands hold values. -/

section
variable {s : State}

/-- R110. -/
theorem exec_i24Pack_of_some (hf : s.fault = false) {n : I32} (hn : s.fx.n = some n) :
    exec .i24Pack s = .next (complete (putFxBytes n s)) := by
  have hx : exec .i24Pack s = execI24Pack s := rfl
  rw [hx, execI24Pack, hn, Option.map_some, runOp_some hf]

/-- R111. -/
theorem exec_i24Unpack_of_bytes (hf : s.fault = false) {b0 b1 b2 : Byte}
    (hb : fxBytes s.fx = some (b0, b1, b2)) :
    exec .i24Unpack s = .next (complete (putFxInt (unpack24 b0 b1 b2) s)) := by
  have hx : exec .i24Unpack s = execI24Unpack s := rfl
  rw [hx, execI24Unpack, hb, Option.map_some, runOp_some hf]

/-- R114. -/
theorem exec_enc24_of_operands (hf : s.fault = false) {v sc : F32} (hv : s.fx.v = some v)
    (hs : s.fx.s = some sc) {n : I32} (hn : encInt (numOf s.num) (drawFree s 0) v sc = n) :
    exec .enc24 s = .next (complete (advanceFree 1 (putFxBytes n (putFxInt n s)))) := by
  have hx : exec .enc24 s = execEnc24 s := rfl
  simp only [hx, execEnc24, hv, hs, hn, runOp_some hf]

/-- R116. -/
theorem exec_dec24_of_operands (hf : s.fault = false) {b0 b1 b2 : Byte} {sc : F32}
    (hb : fxBytes s.fx = some (b0, b1, b2)) (hs : s.fx.s = some sc) :
    exec .dec24 s =
      .next (complete (putFxValue (dequantOf (numOf s.num) (unpack24 b0 b1 b2) sc)
        (putFxInt (unpack24 b0 b1 b2) s))) := by
  have hx : exec .dec24 s = execDec24 s := rfl
  simp only [hx, execDec24, hb, hs, runOp_some hf]

end

/-! The integer half as arithmetic (R112). -/

/-- The low 24 bits of an integer, sign-extended, are the integer exactly in the int24 range. -/
theorem signed24_low_eq_toInt_iff (n : I32) :
    signed24 (n.toNat % 2 ^ 24) = n.toInt ↔ -2 ^ 23 ≤ n.toInt ∧ n.toInt < 2 ^ 23 := by
  have hlt := n.isLt
  have hc := BitVec.toInt_eq_toNat_cond n
  rw [signed24]
  split <;> split at hc <;> omega

/-- R112 (b), and so (a): unpacking the packed bytes gives an integer back exactly in the int24 range. -/
theorem unpack24_packByte_eq_self_iff (n : I32) :
    unpack24 (packByte n 0) (packByte n 1) (packByte n 2) = n ↔
      -2 ^ 23 ≤ n.toInt ∧ n.toInt < 2 ^ 23 := by
  rw [← BitVec.toInt_inj, toInt_unpack24_packByte, signed24_low_eq_toInt_iff]

theorem pack24_eq_iff_packByte (n m : I32) :
    pack24 n = pack24 m ↔
      packByte n 0 = packByte m 0 ∧ packByte n 1 = packByte m 1 ∧ packByte n 2 = packByte m 2 := by
  simp [pack24]

/-- R112 (d): the packed bytes are the digits of the low 24 bits, so they agree exactly where those do. -/
theorem pack24_eq_iff (n m : I32) :
    pack24 n = pack24 m ↔ n.toNat % 2 ^ 24 = m.toNat % 2 ^ 24 := by
  rw [pack24_eq_iff_packByte]
  constructor
  · rintro ⟨h0, h1, h2⟩
    rw [← packByte_number n, ← packByte_number m, h0, h1, h2]
  · intro h
    refine ⟨byte_eq_of_digits ?_, byte_eq_of_digits ?_, byte_eq_of_digits ?_⟩ <;>
      rw [toNat_packByte] <;> norm_num <;> omega

/-! The round trip with scale 1 (R118). -/

theorem f32Val_f32One_ne_zero : f32Val f32One ≠ 0 := by
  rw [Ne, f32Val_eq_zero, f32Mag_one]
  norm_num

theorem toInt_ofInt_of_int24 {k : Int} (hlo : -2 ^ 23 ≤ k) (hhi : k < 2 ^ 23) :
    (BitVec.ofInt 32 k).toInt = k :=
  BitVec.toInt_ofInt_eq_self (by norm_num) (by omega) (by omega)

/-- P1 of R119: with scale 1 an `f32` of an int24 value is quantised to that integer, and the free
value plays no part. -/
theorem encInt_one_of_admissible {num : NumRec} (hnum : num.Admissible) (free : I32) {v : F32} {k : Int}
    (hv : f32IsFinite v = true) (hk : f32Val v = k) (hlo : -2 ^ 23 ≤ k) (hhi : k < 2 ^ 23) :
    encInt num free v f32One = BitVec.ofInt 32 k := by
  rw [encInt, quantOf_of_finite num hv f32One_finite f32Val_f32One_ne_zero,
    hnum.div_one v k hv hk (by omega), Option.getD_some]

/-- Settles O22: P1 quantises the value to `k`, R112 (a) carries `k` through the three bytes, P2 gives its
`f32` back. -/
theorem scaleOneRoundTrip : Obligations.ScaleOneRoundTrip := by
  intro s v k hnum hf hv hs hfin hk hlo hhi
  have hkn : (BitVec.ofInt 32 k).toInt = k := toInt_ofInt_of_int24 hlo hhi
  have hback := (unpack24_packByte_eq_self_iff (BitVec.ofInt 32 k)).2 (by rw [hkn]; exact ⟨hlo, hhi⟩)
  obtain ⟨hwfin, hwval⟩ := hnum.mul_one (BitVec.ofInt 32 k) (by rwa [hkn]) (by rwa [hkn])
  rw [exec_enc24_of_operands hf hv hs (encInt_one_of_admissible hnum _ hfin hk hlo hhi), andThen_next,
    exec_dec24_of_operands (by simpa using hf) (by exact fxBytes_putFxBytes _ _) (by simpa using hs), hback]
  exact ⟨_, _, rfl, hf, rfl, rfl, hwfin, hwval.trans (congrArg Int.cast hkn)⟩

/-- Settles O16: the packed bytes are the low 24 bits (`packByte_number`). -/
theorem packWritesLowTwentyFourBits : Obligations.PackWritesLowTwentyFourBits :=
  fun _ n hf hn => ⟨_, _, _, exec_i24Pack_of_some hf hn, packByte_number n⟩

/-- Settles O17: the unpacked integer is the sign extension of the bytes, so it is an int24. -/
theorem unpackSignExtends : Obligations.UnpackSignExtends :=
  fun _ b0 b1 b2 hf h0 h1 h2 =>
    ⟨_, exec_i24Unpack_of_bytes hf (fxBytes_of_some h0 h1 h2), toInt_unpack24 b0 b1 b2,
      unpack24_range b0 b1 b2⟩

/-- Settles O18: the two compositions run the commands' equations one after the other; what they compute
are the laws of `packByte` and `unpack24`. -/
theorem packUnpackLaws : Obligations.PackUnpackLaws := by
  refine ⟨fun s n hf hn => ?packUnpack, fun s b0 b1 b2 hf h0 h1 h2 => ?unpackPack, pack24_eq_iff⟩
  case packUnpack =>
    rw [exec_i24Pack_of_some hf hn, andThen_next,
      exec_i24Unpack_of_bytes (by simpa using hf) (by exact fxBytes_putFxBytes n s)]
    exact ⟨_, _, rfl, rfl, toInt_unpack24_packByte n, unpack24_packByte_eq_self_iff n⟩
  case unpackPack =>
    obtain ⟨e0, e1, e2⟩ := packByte_unpack24 b0 b1 b2
    rw [exec_i24Unpack_of_bytes hf (fxBytes_of_some h0 h1 h2), andThen_next,
      exec_i24Pack_of_some (by simpa using hf) rfl]
    exact ⟨_, rfl, congrArg some e0, congrArg some e1, congrArg some e2⟩

/-- Settles O20: the state `DEC24` leaves, and the number its bytes hold. -/
theorem decodeFieldResult : Obligations.DecodeFieldResult :=
  fun _ b0 b1 b2 _ hf h0 h1 h2 hs =>
    ⟨_, exec_dec24_of_operands hf (fxBytes_of_some h0 h1 h2) hs, toInt_unpack24 b0 b1 b2⟩

end Sys2Proof
end

section
/-! The statements about the body of structure-B: the bytes `PKT.ENC` writes for it and the fields
`PKT.DEC` delivers. -/

open Sys2Proof.Machine

namespace Sys2Proof

/-! The encode (R132, R153). -/

/-- R132: the state `PKT.ENC` leaves, once the record's operands hold values. -/
theorem exec_pktEnc_of_packet {s : State} (hf : s.fault = false) {p : Packet}
    (hp : packetOperand s.pk s.sc = some p) :
    exec .pktEnc s = .next (complete (advanceFree (drawsOf p)
      { s with pb := s.pb.writeRange 0 (pktEncode (numOf s.num) (drawFree s) p) })) := by
  have hx : exec .pktEnc s = execPktEnc s := rfl
  rw [hx, execPktEnc, hp, Option.map_some, runOp_some hf]

/-- The navigation status is the only operand of structure-B: the checksum flag need hold no value. -/
theorem packetOperand_of_kind_B {r : PkRegs} (sc : ScRegs) (hk : r.kind = some .B) {nav : Byte}
    (hn : r.navigationStatus = some nav) :
    packetOperand r sc = some (.structureB ⟨nav, r.checksum3Valid.getD false⟩) := by
  simp [packetOperand, structureBOperand, hk, hn]

theorem sum8_replicate_zero (n : Nat) : sum8 (List.replicate n 0) = 0 := by
  simp [sum8, byteSum_eq_sum]

/-- Checksum3 of structure-B is its one byte that need not be zero. -/
theorem sum8_bodyB (nav : Byte) : sum8 (bodyB nav) = nav := by
  simp only [bodyB, sum8_append, sum8_singleton, sum8_replicate_zero, zero_add, add_zero]

/-- R153 with the layout of R72. -/
theorem pktEncode_structureB (num : NumRec) (free : Nat → I32) (nav : Byte) (c : Bool) :
    pktEncode num free (.structureB ⟨nav, c⟩) =
      [0xE7] ++ List.replicate 20 0 ++ [nav] ++ List.replicate 49 0 ++ [nav] := by
  have hb : bodyOf num free (.structureB ⟨nav, c⟩) = bodyB nav := rfl
  simp only [pktEncode, hb, sum8_bodyB]
  simp only [bodyB, syncByte, List.append_assoc]

/-- A structure-B encode draws no free value (R122), so only the packet buffer and `STATUS`
change. -/
theorem complete_advanceFree_structureB (b : StructureB) (m : Memory) (s : State) :
    complete (advanceFree (drawsOf (.structureB b)) { s with pb := m }) =
      { s with pb := m, status := 0 } := rfl

/-! The decode (R134, R135, R154). -/

/-- R135: 11 routes to structure-B under every policy, an out-of-set status only under `ROUTE_B`. -/
theorem routeOf_eq_B_iff (policy : BitVec 2) (nav : Byte) :
    routeOf policy nav = .B ↔
      nav = 11 ∨ (nav ∉ ([0, 1, 2, 3, 4, 5, 6, 7, 10, 20, 21, 22] : List Byte) ∧ policy = 2) := by
  by_cases hB : nav = 11
  · simp [routeOf_eq, hB]
  by_cases hA : nav ∈ ([0, 1, 2, 3, 4, 5, 6, 7, 10, 20, 21, 22] : List Byte)
  · simp only [routeOf_allowed policy hA, hB, hA, not_true, false_and, or_self, reduceCtorEq]
  rw [routeOf_eq, if_neg hB, if_neg hA]
  simp only [hB, hA, not_false_eq_true, true_and, false_or]
  by_cases h1 : policy = 1
  · simp [h1]
  · rw [if_neg h1]
    by_cases h2 : policy = 2 <;> simp [h2]

/-- R134: the state `PKT.DEC` leaves for a framed packet that routes to structure-B. -/
theorem exec_pktDec_of_route_B {s : State} {len : Nat} {b : List Byte} (hf : s.fault = false)
    (hl : s.pbLen = some len) (h : 72 ≤ len) (hb : pbOperand s = some b) (h0 : byteAt b 0 = 0xE7)
    (hr : routeOf s.navPolicy (byteAt b 21) = .B) :
    exec .pktDec s = .next (complete (putPacket (.structureB (decodeB b)) s)) := by
  rw [exec_pktDec_of_bytes hf hl h hb, pktDecode_routed _ _ h h0, hr]

/-- Settles O29: the operand is the navigation status alone, and the body's sum is that byte. -/
theorem encodeStructureBLayout : Obligations.EncodeStructureBLayout := by
  intro s nav hf hk hn
  have hexec := exec_pktEnc_of_packet hf (packetOperand_of_kind_B s.sc hk hn)
  rw [pktEncode_structureB, complete_advanceFree_structureB] at hexec
  exact ⟨_, hexec, storedAt_writeRange s.pb 0 _⟩

/-- Settles O34: the two cases of byte 21 are the ones that route to structure-B. -/
theorem decodeStructureBFields : Obligations.DecodeStructureBFields :=
  fun s _ b hf hl h hb h0 h21 =>
    exec_pktDec_of_route_B hf hl h hb h0 ((routeOf_eq_B_iff s.navPolicy (byteAt b 21)).2 h21)

end Sys2Proof
end

section
/-! The statements about the status channel: the payload of each variant as bytes, the rows of the tags in
both directions, `SC.ENC`, and the payload round trips. -/

open Sys2Proof.Machine

namespace Sys2Proof

/-! A number and its little-endian bytes (R52, R53). -/

theorem leBytes_eq_map_digit (n v : Nat) :
    leBytes n v = (List.range n).map fun k => BitVec.ofNat 8 (v / 256 ^ k) := by
  induction n generalizing v with
  | zero => rfl
  | succ n ih =>
    simp [leBytes, ih, List.range_succ_eq_map, Nat.div_div_eq_div_mul, pow_succ', Function.comp_def]

theorem extractLsb'_byte_eq_digit {w : Nat} (x : BitVec w) (k : Nat) :
    x.extractLsb' (8 * k) 8 = BitVec.ofNat 8 (x.toNat / 256 ^ k) := by
  apply BitVec.eq_of_toNat_eq
  simp [BitVec.extractLsb'_toNat, Nat.shiftRight_eq_div_pow, pow_mul]

/-- The bytes of a pattern are its 8-bit fields from bit 0 up, at every width. -/
theorem leBytes_toNat {w : Nat} (n : Nat) (x : BitVec w) :
    leBytes n x.toNat = (List.range n).map fun k => x.extractLsb' (8 * k) 8 := by
  simp only [leBytes_eq_map_digit, extractLsb'_byte_eq_digit]

theorem leBytes_two (x : BitVec 16) :
    leBytes 2 x.toNat = [x.extractLsb' 0 8, x.extractLsb' 8 8] := leBytes_toNat 2 x

theorem leBytes_four (x : BitVec 32) :
    leBytes 4 x.toNat =
      [x.extractLsb' 0 8, x.extractLsb' 8 8, x.extractLsb' 16 8, x.extractLsb' 24 8] :=
  leBytes_toNat 4 x

theorem toNat_byteAt (b : List Byte) (off : Nat) : (byteAt b off).toNat = memRead b off 1 := by
  have h := memRead_lt b off 1
  rw [byteAt, BitVec.toNat_ofNat]
  omega

theorem read16_eq_append {b : List Byte} {off : Nat} (h : off + 2 ≤ b.length) :
    read16 b off = byteAt b (off + 1) ++ byteAt b off := by
  apply BitVec.eq_of_toNat_eq
  have hlt := memRead_lt b off 2
  have hadd : memRead b off 2 = _ := memRead_add b off 1 1 (by omega)
  rw [read16, BitVec.toNat_ofNat, toNat_append_byte, toNat_byteAt, toNat_byteAt]
  omega

theorem read32_eq_append {b : List Byte} {off : Nat} (h : off + 4 ≤ b.length) :
    read32 b off =
      byteAt b (off + 3) ++ byteAt b (off + 2) ++ byteAt b (off + 1) ++ byteAt b off := by
  apply BitVec.eq_of_toNat_eq
  have hlt := memRead_lt b off 4
  have hadd : memRead b off 4 = _ := memRead_add b off 3 1 (by omega)
  rw [memRead_three b off (by omega), ← toNat_byteAt] at hadd
  rw [read32, BitVec.toNat_ofNat, toNat_append_byte, toNat_append_byte, toNat_append_byte]
  omega

theorem append_extractLsb'_two (x : BitVec 16) : x.extractLsb' 8 8 ++ x.extractLsb' 0 8 = x :=
  BitVec.extractLsb'_append_extractLsb' (w := 8) (len := 8)

theorem append_extractLsb'_four (x : BitVec 32) :
    x.extractLsb' 24 8 ++ x.extractLsb' 16 8 ++ x.extractLsb' 8 8 ++ x.extractLsb' 0 8 = x := by
  apply BitVec.eq_of_toNat_eq
  have h := x.isLt
  simp only [toNat_append_byte, BitVec.extractLsb'_toNat, Nat.shiftRight_eq_div_pow]
  omega

theorem leBytes_append_byte {w : Nat} (n : Nat) (x : BitVec w) (b : Byte) :
    leBytes (n + 1) (x ++ b).toNat = b :: leBytes n x.toNat := by
  have hb := b.isLt
  have hlow : BitVec.ofNat 8 (256 * x.toNat + b.toNat) = b := by
    apply BitVec.eq_of_toNat_eq
    rw [BitVec.toNat_ofNat]
    omega
  have hrest : (256 * x.toNat + b.toNat) / 256 = x.toNat := by omega
  rw [toNat_append_byte, leBytes, hlow, hrest]

theorem leBytes_append_two (b1 b0 : Byte) : leBytes 2 (b1 ++ b0).toNat = [b0, b1] := by
  rw [leBytes_append_byte]
  simp [leBytes]

theorem leBytes_append_four (b3 b2 b1 b0 : Byte) :
    leBytes 4 (b3 ++ b2 ++ b1 ++ b0).toNat = [b0, b1, b2, b3] := by
  rw [leBytes_append_byte, leBytes_append_byte, leBytes_append_byte]
  simp [leBytes]

/-! Fields below a byte: innovation channels (R88), nibble pairs (R89) and the derived flags (R32). -/

theorem innovByte_eq_ofNat (c : Innov) :
    innovByte c = BitVec.ofNat 8 (2 * c.mag.toNat + c.valid.toNat) := by
  have hv := Bool.toNat_lt c.valid
  apply BitVec.eq_of_toNat_eq
  rw [innovByte, BitVec.toNat_append, BitVec.toNat_ofBool, ← Nat.shiftLeft_add_eq_or_of_lt hv,
    Nat.shiftLeft_eq, BitVec.toNat_ofNat]
  have hm := c.mag.isLt
  omega

theorem innovOf_eq_ofNat (b : Byte) :
    innovOf b = { mag := BitVec.ofNat 7 (b.toNat / 2), valid := decide (b.toNat % 2 = 1) } := by
  have hmag : b.extractLsb' 1 7 = BitVec.ofNat 7 (b.toNat / 2) := by
    apply BitVec.eq_of_toNat_eq
    rw [BitVec.extractLsb'_toNat, BitVec.toNat_ofNat, Nat.shiftRight_eq_div_pow, pow_one]
  have hvalid : b.getLsbD 0 = decide (b.toNat % 2 = 1) := by
    rw [BitVec.getLsbD, Nat.testBit_eq_decide_div_mod_eq, pow_zero, Nat.div_one]
  rw [innovOf, hmag, hvalid]

@[simp] theorem innovOf_innovByte (c : Innov) : innovOf (innovByte c) = c := by
  have hvalid : (innovByte c).getLsbD 0 = c.valid := by
    rw [innovByte, BitVec.getLsbD_append]
    simp
  rw [innovOf, hvalid, innovByte, BitVec.extractLsb'_append_eq_left]

@[simp] theorem innovByte_innovOf (b : Byte) : innovByte (innovOf b) = b := by
  have hvalid : BitVec.ofBool (b.getLsbD 0) = b.extractLsb' 0 1 := by
    ext k hk
    obtain rfl : k = 0 := by omega
    simp
  rw [innovByte, innovOf, hvalid]
  exact BitVec.extractLsb'_append_extractLsb' (w := 7) (len := 1)

theorem nibbleByte_eq_ofNat (l1 l2 : BitVec 4) :
    nibbleByte l1 l2 = BitVec.ofNat 8 (16 * l2.toNat + l1.toNat) := by
  apply BitVec.eq_of_toNat_eq
  rw [nibbleByte, BitVec.toNat_append, ← Nat.shiftLeft_add_eq_or_of_lt l1.isLt, Nat.shiftLeft_eq,
    BitVec.toNat_ofNat]
  have h1 := l1.isLt
  have h2 := l2.isLt
  omega

theorem extractLsb'_nibble_low (b : Byte) : b.extractLsb' 0 4 = BitVec.ofNat 4 (b.toNat % 16) := by
  apply BitVec.eq_of_toNat_eq
  rw [BitVec.extractLsb'_toNat, BitVec.toNat_ofNat, Nat.shiftRight_zero, Nat.mod_mod]

theorem extractLsb'_nibble_high (b : Byte) : b.extractLsb' 4 4 = BitVec.ofNat 4 (b.toNat / 16) := by
  apply BitVec.eq_of_toNat_eq
  rw [BitVec.extractLsb'_toNat, BitVec.toNat_ofNat, Nat.shiftRight_eq_div_pow]

theorem nibbleByte_extractLsb' (b : Byte) :
    nibbleByte (b.extractLsb' 0 4) (b.extractLsb' 4 4) = b :=
  BitVec.extractLsb'_append_extractLsb' (w := 4) (len := 4)

theorem deviceOk_eq_decide (b : Byte) : deviceOk b = decide (b.toNat ≠ 255) := by
  rw [Bool.eq_iff_iff, deviceOk, devInvalid, bne_iff_ne, decide_eq_true_iff, Ne, ← BitVec.toNat_inj]
  rfl

/-! The payload of each variant as eight bytes (R78 to R87), and the fields of eight bytes. -/

theorem sc0Bytes_eq (f : Sc0) :
    sc0Bytes f =
      [f.fullTime.extractLsb' 0 8, f.fullTime.extractLsb' 8 8, f.fullTime.extractLsb' 16 8,
        f.fullTime.extractLsb' 24 8, f.numSatellites, f.positionMode, f.velocityMode,
        f.orientationMode] := by
  rw [sc0Bytes, leBytes_four]
  rfl

theorem sc2Bytes_eq (f : Sc2) :
    sc2Bytes f =
      [f.charsReceived.extractLsb' 0 8, f.charsReceived.extractLsb' 8 8,
        f.packetsReceived.extractLsb' 0 8, f.packetsReceived.extractLsb' 8 8,
        f.charsNotUnderstood.extractLsb' 0 8, f.charsNotUnderstood.extractLsb' 8 8,
        f.packetsNotUsed.extractLsb' 0 8, f.packetsNotUsed.extractLsb' 8 8] := by
  simp only [sc2Bytes, leBytes_two]
  rfl

/-- Three 16-bit fields and two bytes, the shape of the payloads of tags 3 to 9 (R81 to R87). -/
theorem leBytes_three_words (x y z : BitVec 16) (a b : Byte) :
    leBytes 2 x.toNat ++ leBytes 2 y.toNat ++ leBytes 2 z.toNat ++ [a, b] =
      [x.extractLsb' 0 8, x.extractLsb' 8 8, y.extractLsb' 0 8, y.extractLsb' 8 8,
        z.extractLsb' 0 8, z.extractLsb' 8 8, a, b] := by
  simp only [leBytes_two]
  rfl

section
variable (p0 p1 p2 p3 p4 p5 p6 p7 : Byte)

theorem sc0Of_bytes :
    sc0Of [p0, p1, p2, p3, p4, p5, p6, p7] = ⟨p3 ++ p2 ++ p1 ++ p0, p4, p5, p6, p7⟩ := by
  simp [sc0Of, read32_eq_append, byteAt_eq]

theorem sc1Of_bytes :
    sc1Of [p0, p1, p2, p3, p4, p5, p6, p7] =
      ⟨innovOf p0, innovOf p1, innovOf p2, innovOf p3, innovOf p4, innovOf p5, innovOf p6,
        innovOf p7⟩ := by
  simp [sc1Of, byteAt_eq]

theorem sc2Of_bytes :
    sc2Of [p0, p1, p2, p3, p4, p5, p6, p7] = ⟨p1 ++ p0, p3 ++ p2, p5 ++ p4, p7 ++ p6⟩ := by
  simp [sc2Of, read16_eq_append, byteAt_eq]

theorem sc3Of_bytes :
    sc3Of [p0, p1, p2, p3, p4, p5, p6, p7] = ⟨p1 ++ p0, p3 ++ p2, p5 ++ p4, p6, p7⟩ := by
  simp [sc3Of, read16_eq_append, byteAt_eq]

theorem sc4Of_bytes :
    sc4Of [p0, p1, p2, p3, p4, p5, p6, p7] = ⟨p1 ++ p0, p3 ++ p2, p5 ++ p4, p6, p7⟩ := by
  simp [sc4Of, read16_eq_append, byteAt_eq]

theorem sc5Of_bytes :
    sc5Of [p0, p1, p2, p3, p4, p5, p6, p7] = ⟨p1 ++ p0, p3 ++ p2, p5 ++ p4, p6, p7⟩ := by
  simp [sc5Of, read16_eq_append, byteAt_eq]

theorem scValsOf_bytes :
    scValsOf [p0, p1, p2, p3, p4, p5, p6, p7] =
      ⟨p1 ++ p0, p3 ++ p2, p5 ++ p4, p6, p7.extractLsb' 0 4, p7.extractLsb' 4 4⟩ := by
  simp [scValsOf, read16_eq_append, byteAt_eq]

end

/-! The fields survive their bytes (R197). -/

theorem sc0Of_sc0Bytes (f : Sc0) : sc0Of (sc0Bytes f) = f := by
  rw [sc0Bytes_eq, sc0Of_bytes, append_extractLsb'_four]

theorem sc1Of_sc1Bytes (f : Sc1) : sc1Of (sc1Bytes f) = f := by
  simp only [sc1Bytes, sc1Of_bytes, innovOf_innovByte]

theorem sc2Of_sc2Bytes (f : Sc2) : sc2Of (sc2Bytes f) = f := by
  simp only [sc2Bytes_eq, sc2Of_bytes, append_extractLsb'_two]

theorem sc3Of_sc3Bytes (f : Sc3) : sc3Of (sc3Bytes f) = f := by
  simp only [sc3Bytes, leBytes_three_words, sc3Of_bytes, append_extractLsb'_two]

theorem sc4Of_sc4Bytes (f : Sc4) : sc4Of (sc4Bytes f) = f := by
  simp only [sc4Bytes, leBytes_three_words, sc4Of_bytes, append_extractLsb'_two]

theorem sc5Of_sc5Bytes (f : Sc5) : sc5Of (sc5Bytes f) = f := by
  simp only [sc5Bytes, leBytes_three_words, sc5Of_bytes, append_extractLsb'_two]

theorem scValsOf_scValsBytes (f : ScVals) : scValsOf (scValsBytes f) = f := by
  simp only [scValsBytes, leBytes_three_words, scValsOf_bytes, append_extractLsb'_two, nibbleByte,
    BitVec.extractLsb'_append_eq_left, BitVec.extractLsb'_append_eq_right]

/-! Eight bytes survive the fields of each variant (R197). -/

section
variable {p : List Byte}

theorem exists_eight_bytes (h : p.length = 8) :
    ∃ p0 p1 p2 p3 p4 p5 p6 p7, p = [p0, p1, p2, p3, p4, p5, p6, p7] :=
  match p, h with
  | [p0, p1, p2, p3, p4, p5, p6, p7], _ => ⟨p0, p1, p2, p3, p4, p5, p6, p7, rfl⟩

theorem sc0Bytes_sc0Of (h : p.length = 8) : sc0Bytes (sc0Of p) = p := by
  obtain ⟨p0, p1, p2, p3, p4, p5, p6, p7, rfl⟩ := exists_eight_bytes h
  simp only [sc0Of_bytes, sc0Bytes, leBytes_append_four]
  rfl

theorem sc1Bytes_sc1Of (h : p.length = 8) : sc1Bytes (sc1Of p) = p := by
  obtain ⟨p0, p1, p2, p3, p4, p5, p6, p7, rfl⟩ := exists_eight_bytes h
  simp only [sc1Of_bytes, sc1Bytes, innovByte_innovOf]

theorem sc2Bytes_sc2Of (h : p.length = 8) : sc2Bytes (sc2Of p) = p := by
  obtain ⟨p0, p1, p2, p3, p4, p5, p6, p7, rfl⟩ := exists_eight_bytes h
  simp only [sc2Of_bytes, sc2Bytes, leBytes_append_two]
  rfl

theorem sc3Bytes_sc3Of (h : p.length = 8) : sc3Bytes (sc3Of p) = p := by
  obtain ⟨p0, p1, p2, p3, p4, p5, p6, p7, rfl⟩ := exists_eight_bytes h
  simp only [sc3Of_bytes, sc3Bytes, leBytes_append_two]
  rfl

theorem sc4Bytes_sc4Of (h : p.length = 8) : sc4Bytes (sc4Of p) = p := by
  obtain ⟨p0, p1, p2, p3, p4, p5, p6, p7, rfl⟩ := exists_eight_bytes h
  simp only [sc4Of_bytes, sc4Bytes, leBytes_append_two]
  rfl

theorem sc5Bytes_sc5Of (h : p.length = 8) : sc5Bytes (sc5Of p) = p := by
  obtain ⟨p0, p1, p2, p3, p4, p5, p6, p7, rfl⟩ := exists_eight_bytes h
  simp only [sc5Of_bytes, sc5Bytes, leBytes_append_two]
  rfl

theorem scValsBytes_scValsOf (h : p.length = 8) : scValsBytes (scValsOf p) = p := by
  obtain ⟨p0, p1, p2, p3, p4, p5, p6, p7, rfl⟩ := exists_eight_bytes h
  simp only [scValsOf_bytes, scValsBytes, leBytes_append_two, nibbleByte_extractLsb']
  rfl

end

/-! The registry (R21, R171). -/

theorem registered_tag_cases {tag : Byte} (h : tag.toNat ≤ 9) :
    tag = 0 ∨ tag = 1 ∨ tag = 2 ∨ tag = 3 ∨ tag = 4 ∨ tag = 5 ∨ tag = 6 ∨ tag = 7 ∨ tag = 8 ∨
      tag = 9 := by
  bv_omega

theorem channelOf_of_unregistered {tag : Byte} (p : List Byte) (h : 10 ≤ tag.toNat) :
    channelOf tag p = none := by
  have hr : registry tag = none := if_neg (Nat.not_lt.2 h)
  rw [channelOf, hr]

theorem registered_of_channelOf {tag : Byte} {p : List Byte} {v : Variant}
    (h : channelOf tag p = some v) : tag.toNat ≤ 9 := by
  by_contra hn
  rw [channelOf_of_unregistered p (by omega)] at h
  cases h

theorem tag_of_variantOperand {r : ScRegs} {t : BitVec 4} {v : Variant}
    (h : variantOperand r t = some v) : v.tag = t := by
  unfold variantOperand at h
  split at h
  case h_11 => cases h
  all_goals
    next ht =>
    obtain ⟨_, -, rfl⟩ := Option.map_eq_some_iff.1 h
    exact BitVec.eq_of_toNat_eq ht.symm

theorem tagByteOf_some (v : Variant) : tagByteOf (some v) = v.tag.setWidth 8 := by
  cases v <;> rfl

/-- A variant survives encode and decode. -/
theorem channelOf_encode (v : Variant) : channelOf (tagByteOf (some v)) (payloadOf v) = some v := by
  cases v with
  | sc0 f => exact congrArg (some ∘ Variant.sc0) (sc0Of_sc0Bytes f)
  | sc1 f => exact congrArg (some ∘ Variant.sc1) (sc1Of_sc1Bytes f)
  | sc2 f => exact congrArg (some ∘ Variant.sc2) (sc2Of_sc2Bytes f)
  | sc3 f => exact congrArg (some ∘ Variant.sc3) (sc3Of_sc3Bytes f)
  | sc4 f => exact congrArg (some ∘ Variant.sc4) (sc4Of_sc4Bytes f)
  | sc5 f => exact congrArg (some ∘ Variant.sc5) (sc5Of_sc5Bytes f)
  | sc6 f => exact congrArg (some ∘ Variant.sc6) (scValsOf_scValsBytes f)
  | sc7 f => exact congrArg (some ∘ Variant.sc7) (scValsOf_scValsBytes f)
  | sc8 f => exact congrArg (some ∘ Variant.sc8) (scValsOf_scValsBytes f)
  | sc9 f => exact congrArg (some ∘ Variant.sc9) (scValsOf_scValsBytes f)

/-- The bytes of a registered tag survive decode and encode. -/
theorem encode_channelOf {tag : Byte} {p : List Byte} (ht : tag.toNat ≤ 9) (hp : p.length = 8) :
    ∃ v, channelOf tag p = some v ∧ tagByteOf (some v) = tag ∧ payloadOf v = p := by
  rcases registered_tag_cases ht with rfl | rfl | rfl | rfl | rfl | rfl | rfl | rfl | rfl | rfl
  · exact ⟨.sc0 (sc0Of p), rfl, rfl, sc0Bytes_sc0Of hp⟩
  · exact ⟨.sc1 (sc1Of p), rfl, rfl, sc1Bytes_sc1Of hp⟩
  · exact ⟨.sc2 (sc2Of p), rfl, rfl, sc2Bytes_sc2Of hp⟩
  · exact ⟨.sc3 (sc3Of p), rfl, rfl, sc3Bytes_sc3Of hp⟩
  · exact ⟨.sc4 (sc4Of p), rfl, rfl, sc4Bytes_sc4Of hp⟩
  · exact ⟨.sc5 (sc5Of p), rfl, rfl, sc5Bytes_sc5Of hp⟩
  · exact ⟨.sc6 (scValsOf p), rfl, rfl, scValsBytes_scValsOf hp⟩
  · exact ⟨.sc7 (scValsOf p), rfl, rfl, scValsBytes_scValsOf hp⟩
  · exact ⟨.sc8 (scValsOf p), rfl, rfl, scValsBytes_scValsOf hp⟩
  · exact ⟨.sc9 (scValsOf p), rfl, rfl, scValsBytes_scValsOf hp⟩

/-! The rows of the tags, once their operands hold values. -/

section
variable {s : State}

theorem runOp_map_some {α : Type} (hf : s.fault = false) {o : Option α} {a : α} (ho : o = some a)
    (g : α → State) : runOp s (o.map g) = .next (g a) := by
  rw [ho, Option.map_some, runOp_some hf]

/-- The decode row of a tag writes the fields of the variant that the tag and the payload name. -/
theorem exec_decodeTag_of_channelOf (hf : s.fault = false) {p : List Byte} (hp : spOperand s = some p)
    {tag : Byte} {v : Variant} (hv : channelOf tag p = some v) :
    exec (decodeTag tag) s = .next (putVariant v s) := by
  rcases registered_tag_cases (registered_of_channelOf hv) with
    rfl | rfl | rfl | rfl | rfl | rfl | rfl | rfl | rfl | rfl
  all_goals
    obtain rfl := Option.some.inj hv
    exact runOp_map_some hf hp _

/-- The encode row of a tag writes the payload of the variant that the tag names. -/
theorem exec_encodeRow_of_variantOperand (hf : s.fault = false) {t : BitVec 4} {v : Variant}
    (hv : variantOperand s.sc t = some v) {i : Instr} (hi : decode (.tagEnc (t.setWidth 8)) = .ok i) :
    exec i s = .next (putPayload (payloadOf v) s) := by
  obtain rfl := tag_of_variantOperand hv
  cases v
  all_goals
    obtain ⟨f, hf', hv'⟩ := Option.map_eq_some_iff.1 hv
    obtain rfl := Except.ok.inj hi
    cases hv'
    exact runOp_map_some hf hf' _

theorem exec_encodeRow_storedAt (hf : s.fault = false) {t : BitVec 4} {v : Variant}
    (hv : variantOperand s.sc t = some v) {i : Instr} (hi : decode (.tagEnc (t.setWidth 8)) = .ok i)
    {bytes : List Byte} (hb : payloadOf v = bytes) :
    ∃ m, exec i s = .next { s with sp := m } ∧ StoredAt m s.sp 0 bytes := by
  subst hb
  exact ⟨_, exec_encodeRow_of_variantOperand hf hv hi, storedAt_writeRange s.sp 0 _⟩

theorem exists_encodeRow (v : Variant) : ∃ i, decode (.tagEnc (v.tag.setWidth 8)) = .ok i := by
  cases v <;> exact ⟨_, rfl⟩

/-! `SC.ENC` (R172, R194). -/

theorem channelOperand_of_absent {r : ScRegs} (h : r.present = some false) :
    channelOperand r = some none := by
  rw [channelOperand, h]

theorem channelOperand_of_variantOperand {r : ScRegs} (h : r.present = some true) {t : BitVec 4}
    (ht : r.tag = some t) {v : Variant} (hv : variantOperand r t = some v) :
    channelOperand r = some (some v) := by
  simp only [channelOperand, h, ht, hv, Option.map_some]

theorem exec_scEnc_of_channelOperand (hf : s.fault = false) {c : Option Variant}
    (hc : channelOperand s.sc = some c) :
    exec .scEnc s =
      .next (complete (putPayload (channelPayload c) { s with scTagByte := some (tagByteOf c) })) :=
  runOp_map_some hf hc _

end

/-- Settles O41: the row of each tag, and the fields its eight bytes hold. -/
theorem decodeRowsOfTagsZeroToTwo : Obligations.DecodeRowsOfTagsZeroToTwo := by
  intro s p0 p1 p2 p3 p4 p5 p6 p7 hf hp
  have h0 := exec_decodeTag_of_channelOf hf hp (tag := 0) rfl
  have h1 := exec_decodeTag_of_channelOf hf hp (tag := 1) rfl
  have h2 := exec_decodeTag_of_channelOf hf hp (tag := 2) rfl
  rw [sc0Of_bytes] at h0
  rw [sc1Of_bytes] at h1
  rw [sc2Of_bytes] at h2
  simp only [innovOf_eq_ofNat] at h1
  exact ⟨h0, h1, h2⟩

/-- Settles O42: the row of each tag, the fields its eight bytes hold, and the two derived flags. -/
theorem decodeRowsOfTagsThreeToFive : Obligations.DecodeRowsOfTagsThreeToFive := by
  intro s p0 p1 p2 p3 p4 p5 p6 p7 hf hp
  have h3 := exec_decodeTag_of_channelOf hf hp (tag := 3) rfl
  have h4 := exec_decodeTag_of_channelOf hf hp (tag := 4) rfl
  have h5 := exec_decodeTag_of_channelOf hf hp (tag := 5) rfl
  rw [sc3Of_bytes] at h3
  rw [sc4Of_bytes] at h4
  rw [sc5Of_bytes] at h5
  rw [← deviceOk_eq_decide]
  exact ⟨h3, h4, h5⟩

/-- Settles O43: tags 6 to 9 share one set of fields, so one reading of the eight bytes serves them. -/
theorem decodeRowsOfTagsSixToNine : Obligations.DecodeRowsOfTagsSixToNine := by
  intro s p0 p1 p2 p3 p4 p5 p6 p7 i hf hp hi
  have h6 := exec_decodeTag_of_channelOf hf hp (tag := 6) rfl
  have h7 := exec_decodeTag_of_channelOf hf hp (tag := 7) rfl
  have h8 := exec_decodeTag_of_channelOf hf hp (tag := 8) rfl
  have h9 := exec_decodeTag_of_channelOf hf hp (tag := 9) rfl
  rw [scValsOf_bytes, extractLsb'_nibble_low, extractLsb'_nibble_high] at h6 h7 h8 h9
  simp only [List.mem_cons, List.not_mem_nil, or_false] at hi
  rcases hi with rfl | rfl | rfl | rfl
  · exact h6
  · exact h7
  · exact h8
  · exact h9

/-- Settles O44: the fields held are the variant of the tag, and its payload is the eight bytes. -/
theorem encodeRowsOfTagsZeroToTwo : Obligations.EncodeRowsOfTagsZeroToTwo := by
  intro s hf
  refine ⟨fun ft ns pm vm om h0 h1 h2 h3 h4 => ?tag0,
    fun c0 c1 c2 c3 c4 c5 c6 c7 h0 h1 h2 h3 h4 h5 h6 h7 => ?tag1,
    fun cr pr cn pn h0 h1 h2 h3 => ?tag2⟩
  case tag0 =>
    have hv : variantOperand s.sc 0 = some (.sc0 ⟨ft, ns, pm, vm, om⟩) := by
      simp [variantOperand, sc0Operand, h0, h1, h2, h3, h4]
    exact exec_encodeRow_storedAt hf hv rfl (sc0Bytes_eq _)
  case tag1 =>
    have hv : variantOperand s.sc 1 = some (.sc1 ⟨c0, c1, c2, c3, c4, c5, c6, c7⟩) := by
      simp [variantOperand, sc1Operand, h0, h1, h2, h3, h4, h5, h6, h7]
    refine exec_encodeRow_storedAt hf hv rfl ?_
    simp only [payloadOf, sc1Bytes, innovByte_eq_ofNat, List.map_cons, List.map_nil]
  case tag2 =>
    have hv : variantOperand s.sc 2 = some (.sc2 ⟨cr, pr, cn, pn⟩) := by
      simp [variantOperand, sc2Operand, h0, h1, h2, h3]
    exact exec_encodeRow_storedAt hf hv rfl (sc2Bytes_eq _)

/-- Settles O45: the three payloads have one shape, and no flag is an operand. -/
theorem encodeRowsOfTagsThreeToFive : Obligations.EncodeRowsOfTagsThreeToFive := by
  intro s x y z age last hf hage
  have hb := leBytes_three_words x y z age last
  refine ⟨fun h0 h1 h2 h3 => ?tag3, fun h0 h1 h2 h3 => ?tag4, fun h0 h1 h2 h3 => ?tag5⟩
  case tag3 =>
    have hv : variantOperand s.sc 3 = some (.sc3 ⟨x, y, z, age, last⟩) := by
      simp [variantOperand, sc3Operand, h0, h1, h2, hage, h3]
    exact exec_encodeRow_storedAt hf hv rfl hb
  case tag4 =>
    have hv : variantOperand s.sc 4 = some (.sc4 ⟨x, y, z, age, last⟩) := by
      simp [variantOperand, sc4Operand, h0, h1, h2, hage, h3]
    exact exec_encodeRow_storedAt hf hv rfl hb
  case tag5 =>
    have hv : variantOperand s.sc 5 = some (.sc5 ⟨x, y, z, age, last⟩) := by
      simp [variantOperand, sc5Operand, h0, h1, h2, hage, h3]
    exact exec_encodeRow_storedAt hf hv rfl hb

/-- Settles O46: the four rows read the same fields and write the same bytes. -/
theorem encodeRowsOfTagsSixToNine : Obligations.EncodeRowsOfTagsSixToNine := by
  intro s x y z age l1 l2 i hf h0 h1 h2 hage h3 h4 hi
  have hb : scValsBytes ⟨x, y, z, age, l1, l2⟩ = _ :=
    leBytes_three_words x y z age (nibbleByte l1 l2)
  rw [nibbleByte_eq_ofNat] at hb
  have hvals : scValsOperand s.sc = some ⟨x, y, z, age, l1, l2⟩ := by
    simp [scValsOperand, h0, h1, h2, hage, h3, h4]
  simp only [List.mem_cons, List.not_mem_nil, or_false] at hi
  rcases hi with rfl | rfl | rfl | rfl
  · exact exec_encodeRow_storedAt hf (t := 6) (congrArg (Option.map Variant.sc6) hvals) rfl hb
  · exact exec_encodeRow_storedAt hf (t := 7) (congrArg (Option.map Variant.sc7) hvals) rfl hb
  · exact exec_encodeRow_storedAt hf (t := 8) (congrArg (Option.map Variant.sc8) hvals) rfl hb
  · exact exec_encodeRow_storedAt hf (t := 9) (congrArg (Option.map Variant.sc9) hvals) rfl hb

/-- Settles O47: both cases are `SC.ENC` of the channel the registers hold, and a variant's payload is the
one that the row of its tag writes. -/
theorem encodeChannelResult : Obligations.EncodeChannelResult := by
  refine fun s hf => ⟨fun hp => ?none, fun t v hp ht hv => ?variant⟩
  case none =>
    exact ⟨_, exec_scEnc_of_channelOperand hf (channelOperand_of_absent hp),
      storedAt_writeRange s.sp 0 _⟩
  case variant =>
    obtain rfl := tag_of_variantOperand hv
    obtain ⟨i, hi⟩ := exists_encodeRow v
    have henc := exec_scEnc_of_channelOperand hf (channelOperand_of_variantOperand hp ht hv)
    rw [tagByteOf_some] at henc
    exact ⟨_, i, henc, length_payloadOf v, storedAt_writeRange s.sp 0 _, hi,
      exec_encodeRow_of_variantOperand hf hv hi⟩

/-- Settles O51: the two round trips of a variant, and an unknown tag decodes to no status channel. -/
theorem payloadRoundTrip : Obligations.PayloadRoundTrip := by
  refine ⟨fun c => ?encodeDecode, fun tag p => encode_channelOf, fun tag p h => ?unknown⟩
  case encodeDecode =>
    cases c with
    | none => exact channelOf_of_unregistered _ (by decide)
    | some v => exact channelOf_encode v
  case unknown =>
    rw [channelOf_of_unregistered p h]
    exact ⟨rfl, rfl, rfl⟩

end Sys2Proof
end

section
/-! The statements about the scanner: where a scan starts, and which candidates it accepts. -/

open Sys2Proof.Machine

namespace Sys2Proof

/-! The bound on the stream (R210, R237 (b)). -/

theorem tooLong_eq_true_iff (s : State) (len : Nat) :
    tooLong s len = true ↔ ∃ max, s.sbMax = some max ∧ max < len := by
  cases h : s.sbMax with
  | none => simp [tooLong, h]
  | some m => simp [tooLong, h]

theorem tooLong_eq_false_iff (s : State) (len : Nat) :
    tooLong s len = false ↔ ∀ max, s.sbMax = some max → len ≤ max := by
  rw [← Bool.not_eq_true, tooLong_eq_true_iff]
  simp only [not_exists, not_and, not_lt]

section
variable {s : State} {len : Nat}

theorem exec_scanInit_of_tooLong (hf : s.fault = false) (hl : s.sbLen = some len)
    (h : tooLong s len = true) : exec .scanInit s = .next s.violated := by
  have hx : exec .scanInit s = execScanInit s := rfl
  simp only [hx, execScanInit, hl, h, if_true, runOp_none hf, raise_preconditionViolation_eq]

theorem exec_scanInit_of_fits (hf : s.fault = false) (hl : s.sbLen = some len)
    (h : tooLong s len = false) : exec .scanInit s = .next { s with scanPos := 0, outq := [] } := by
  have hx : exec .scanInit s = execScanInit s := rfl
  simp only [hx, execScanInit, hl, h, Bool.false_eq_true, if_false, runOp_some hf]

/-- `SCAN` begins with `SCAN.INIT`, so it meets the same bound before it reads a byte of the stream. -/
theorem exec_scan_of_tooLong (hf : s.fault = false) (hl : s.sbLen = some len)
    (h : tooLong s len = true) : exec .scan s = .next s.violated := by
  have hx : exec .scan s = execScan s := rfl
  simp only [hx, execScan, hl, h, if_true, runOp_none hf, raise_preconditionViolation_eq]

end

/-! The checksum test (`CHKOK` of R212). -/

theorem chkAccept_structureA_iff (mask : BitVec 3) (a : StructureA) :
    chkAccept mask (.structureA a) = true ↔
      (mask.getLsbD 2 = false ∨ a.checksum3Valid = true) ∧
        (mask.getLsbD 0 = false ∨ a.checksum1Valid = true) ∧
        (mask.getLsbD 1 = false ∨ a.checksum2Valid = true) := by
  simp only [chkAccept, Bool.and_eq_true, Bool.or_eq_true, Bool.not_eq_true', and_assoc]

theorem chkAccept_structureB_iff (mask : BitVec 3) (b : StructureB) :
    chkAccept mask (.structureB b) = true ↔ mask.getLsbD 2 = false ∨ b.checksum3Valid = true := by
  simp only [chkAccept, Bool.or_eq_true, Bool.not_eq_true']

/-- The default mask names no flag. -/
theorem chkAccept_zero (p : Packet) : chkAccept 0 p = true := by
  cases p with
  | structureA a => exact (chkAccept_structureA_iff 0 a).2 ⟨.inl rfl, .inl rfl, .inl rfl⟩
  | structureB b => exact (chkAccept_structureB_iff 0 b).2 (.inl rfl)

/-! The acceptance test (R212). -/

theorem accepts_eq_some_iff (num : NumRec) (policy : BitVec 2) (mask : BitVec 3) (w : List Byte)
    (p : Packet) :
    accepts num policy mask w = some p ↔
      pktDecode num policy 72 w = .ok p ∧ chkAccept mask p = true := by
  rw [accepts, pktLen]
  cases pktDecode num policy 72 w with
  | error e => simp only [reduceCtorEq, false_and]
  | ok q =>
    simp only [Option.ite_none_right_eq_some, Option.some.injEq, Except.ok.injEq]
    constructor
    · rintro ⟨hq, rfl⟩; exact ⟨rfl, hq⟩
    · rintro ⟨rfl, hq⟩; exact ⟨hq, rfl⟩

theorem accepts_zero_eq_some_iff (num : NumRec) (policy : BitVec 2) (w : List Byte) (p : Packet) :
    accepts num policy 0 w = some p ↔ pktDecode num policy 72 w = .ok p := by
  rw [accepts_eq_some_iff, and_iff_left (chkAccept_zero p)]

/-- A window that starts with the sync byte can fail to decode only by its route. -/
theorem exists_pktDecode_ok_iff (num : NumRec) (policy : BitVec 2) {w : List Byte}
    (h0 : byteAt w 0 = 0xE7) :
    (∃ p, pktDecode num policy 72 w = .ok p) ↔ routeOf policy (byteAt w 21) ≠ .reject := by
  rw [pktDecode_routed num policy le_rfl h0]
  cases routeOf policy (byteAt w 21) with
  | reject => simp
  | A => simp
  | B => simp

theorem accepts_zero_isSome_iff (num : NumRec) (policy : BitVec 2) {w : List Byte}
    (h0 : byteAt w 0 = 0xE7) :
    (accepts num policy 0 w).isSome = true ↔ routeOf policy (byteAt w 21) ≠ .reject := by
  rw [Option.isSome_iff_exists, ← exists_pktDecode_ok_iff num policy h0]
  simp only [accepts_zero_eq_some_iff]

/-- R135 under `REJECT`, the reserved strap code included: the route is a structure for the 13 values of
`NAV_ALLOWED` and 11 alone. -/
theorem routeOf_ne_reject_iff_of_reject {policy : BitVec 2} (h1 : policy ≠ 1) (h2 : policy ≠ 2)
    (nav : Byte) :
    routeOf policy nav ≠ .reject ↔
      nav ∈ ([0, 1, 2, 3, 4, 5, 6, 7, 10, 11, 20, 21, 22] : List Byte) := by
  have hset : nav ∈ ([0, 1, 2, 3, 4, 5, 6, 7, 10, 11, 20, 21, 22] : List Byte) ↔
      nav = 11 ∨ nav ∈ ([0, 1, 2, 3, 4, 5, 6, 7, 10, 20, 21, 22] : List Byte) := by
    simp only [List.mem_cons, List.not_mem_nil, or_false]
    tauto
  rw [hset, routeOf_eq, if_neg h1, if_neg h2]
  split
  next hB => exact iff_of_true Route.noConfusion (.inl hB)
  next hB =>
    split
    next hA => exact iff_of_true Route.noConfusion (.inr hA)
    next hA => exact iff_of_false (not_not.2 rfl) (not_or.2 ⟨hB, hA⟩)

/-- R135 under `ACCEPT_A` and `ROUTE_B`: no status is rejected. -/
theorem routeOf_ne_reject_of_accept {policy : BitVec 2} (h : policy = 1 ∨ policy = 2) (nav : Byte) :
    routeOf policy nav ≠ .reject := by
  rw [routeOf_eq]
  split_ifs with hB hA h1 h2
  case neg => exact absurd h (not_or.2 ⟨h1, h2⟩)
  all_goals exact Route.noConfusion

/-- Settles O52: both bounds are `SB_MAX` against the length, and `SCAN` is stopped by the one of its
`SCAN.INIT`. -/
theorem scanInitResult : Obligations.ScanInitResult := by
  refine fun s len hf hl => ⟨fun max hmax hlt => ?violates, fun hfits => ?starts⟩
  case violates =>
    have hlong := (tooLong_eq_true_iff s len).2 ⟨max, hmax, hlt⟩
    exact ⟨exec_scanInit_of_tooLong hf hl hlong, exec_scan_of_tooLong hf hl hlong⟩
  case starts => exact exec_scanInit_of_fits hf hl ((tooLong_eq_false_iff s len).2 hfits)

/-- Settles O55: acceptance is a decode and the checksum test; with mask 0 it is the decode alone, and the
decode of a window with the sync byte is decided by the route of byte 21. -/
theorem acceptanceTest : Obligations.AcceptanceTest := by
  refine fun num policy mask w => ⟨fun a => ?structureA, fun b => ?structureB,
    fun pkt => (accepts_zero_eq_some_iff num policy w pkt).2, fun h0 h1 h2 => ?reject,
    fun h0 h => ?accept⟩
  case structureA => rw [accepts_eq_some_iff, chkAccept_structureA_iff]
  case structureB => rw [accepts_eq_some_iff, chkAccept_structureB_iff]
  case reject => rw [accepts_zero_isSome_iff num policy h0, routeOf_ne_reject_iff_of_reject h1 h2]
  case accept =>
    exact (accepts_zero_isSome_iff num policy h0).2 (routeOf_ne_reject_of_accept h (byteAt w 21))

end Sys2Proof
end

section
/-! The statements about the decoder as a whole and about every step: decode and encode are inverse, a step
runs the decoded operation, and what every operation and every step keeps. -/

open Sys2Proof.Machine

namespace Sys2Proof

open Laws

/-! Decode and encode. -/

/-- The row of every well-formed operation, found by its selector. -/
theorem decode_encode : ∀ {i : Instr}, i.wellFormed = true → decode (encode i) = .ok i
  | .illegal code, hw => (SelectorRow.illegal code).decode_encode hw
  | .aDec nav, hw => (SelectorRow.aDec nav).decode_encode hw
  | .routeOutOfSet nav, hw => (SelectorRow.routeOutOfSet nav).decode_encode hw
  | .scNoneDec tag, hw => (SelectorRow.scNoneDec tag).decode_encode hw
  | .csum lo hi, hw => (SelectorRow.csum lo hi).decode_encode hw
  | .sync site, hw => (SelectorRow.sync site).decode_encode hw
  | .enc24, _ | .dec24, _ | .pktEnc, _ | .pktDec, _ | .scEnc, _ | .scDec, _ | .scLookup, _
  | .scan, _ | .i24Pack, _ | .i24Unpack, _ | .bDec, _ | .sc0Dec, _ | .sc0Enc, _ | .sc1Dec, _
  | .sc1Enc, _ | .sc2Dec, _ | .sc2Enc, _ | .sc3Dec, _ | .sc3Enc, _ | .sc4Dec, _ | .sc4Enc, _
  | .sc5Dec, _ | .sc5Enc, _ | .sc6Dec, _ | .sc6Enc, _ | .sc7Dec, _ | .sc7Enc, _ | .sc8Dec, _
  | .sc8Enc, _ | .sc9Dec, _ | .sc9Enc, _ | .scNoneEnc, _ | .quant, _ | .dequant, _ | .route, _
  | .aEnc, _ | .bEnc, _ | .scanInit, _ | .scanStep, _ => rfl

/-- Each code matches one arm of `decodeCmd`, and that arm's operation has the code. -/
theorem encode_decodeCmd (op : BitVec 4) : encode (decodeCmd op) = .cmd op := by
  unfold decodeCmd
  split
  case h_11 => rfl
  all_goals
    next h => exact congrArg Selector.cmd (BitVec.eq_of_toNat_eq h.symm)

theorem decodeNav_wellFormed (b : Byte) : (decodeNav b).wellFormed = true := by
  rw [decodeNav_eq_ite]
  split_ifs with hB hA
  · rfl
  · simpa [Instr.wellFormed] using hA
  · have hne : (b != navB) = true := bne_iff_ne.2 hB
    simp [Instr.wellFormed, hne, hA]

theorem encode_decodeNav (b : Byte) : encode (decodeNav b) = .nav b := by
  rw [decodeNav_eq_ite]
  split_ifs with hB hA
  · rw [hB]; rfl
  · rfl
  · rfl

/-- The last arm of `decodeTag` is reached only by the unregistered tags. -/
theorem decodeTag_wellFormed (tag : Byte) : (decodeTag tag).wellFormed = true := by
  unfold decodeTag
  split
  case h_11 =>
    simp only [imp_false] at *
    simp only [Instr.wellFormed, decide_eq_true_eq]
    omega
  all_goals rfl

theorem encode_decodeTag (tag : Byte) : encode (decodeTag tag) = .tagDec tag := by
  unfold decodeTag
  split
  case h_11 => rfl
  all_goals
    next h => exact congrArg Selector.tagDec (BitVec.eq_of_toNat_eq h.symm)

theorem encode_of_decodeEncTag {tag : Byte} {i : Instr} (h : decodeEncTag tag = some i) :
    i.wellFormed = true ∧ encode i = .tagEnc tag := by
  unfold decodeEncTag at h
  split at h
  case h_12 => cases h
  all_goals
    next ht =>
    cases h
    exact ⟨rfl, congrArg Selector.tagEnc (BitVec.eq_of_toNat_eq ht.symm)⟩

theorem encode_of_decodeSub {op : SubOp} {i : Instr} (h : decodeSub op = .ok i) :
    i.wellFormed = true ∧ encode i = .sub op := by
  cases op with
  | csum lo hi =>
    simp only [decodeSub] at h
    split at h
    next hr => cases h; exact ⟨by simpa [Instr.wellFormed] using hr, rfl⟩
    next => cases h
  | quant | dequant | route | aEnc | bEnc | scanInit | scanStep => cases h; exact ⟨rfl, rfl⟩

/-- A selector that decodes is the selector of the well-formed operation it gives, by dispatch point. -/
theorem encode_of_decode {sel : Selector} {i : Instr} (h : decode sel = .ok i) :
    i.wellFormed = true ∧ encode i = sel := by
  cases sel with
  | cmd op => cases h; exact ⟨decodeCmd_wellFormed op, encode_decodeCmd op⟩
  | nav b => cases h; exact ⟨decodeNav_wellFormed b, encode_decodeNav b⟩
  | tagDec b => cases h; exact ⟨decodeTag_wellFormed b, encode_decodeTag b⟩
  | tagEnc b =>
    cases hb : decodeEncTag b with
    | none => rw [decode_tagEnc_of_none hb] at h; cases h
    | some j =>
      simp only [decode, hb, Except.ok.injEq] at h
      exact h ▸ encode_of_decodeEncTag hb
  | byte0 site b =>
    simp only [decode] at h
    split at h
    next hb => cases h; subst hb; exact ⟨rfl, rfl⟩
    next => cases h
  | sub op => exact encode_of_decodeSub h

/-! The step, by the host's next event. -/

theorem step_idle {s : State} (h : s.host = []) : step s = .next s := by
  simp only [step, h]

theorem step_write {s : State} {w : HostWrite} {rest : List HostEvent}
    (h : s.host = .write w :: rest) : step s = .next (hostWrite w { s with host := rest }) := by
  simp only [step, h]

theorem step_reset {s : State} {policy : BitVec 2} {mask : BitVec 3} {rest : List HostEvent}
    (h : s.host = .reset policy mask :: rest) :
    step s = .next (resetBlock policy mask { s with host := rest }) := by
  simp only [step, h]

theorem step_issue {s : State} {sel : Selector} {rest : List HostEvent} {i : Instr}
    (h : s.host = .issue sel :: rest) (hi : decode sel = .ok i) :
    step s = exec i (issueFetch sel rest s) := by
  simp only [step, h, hi]

theorem step_issue_of_reject {s : State} {sel : Selector} {rest : List HostEvent} {e : DecodeReject}
    (h : s.host = .issue sel :: rest) (hi : decode sel = .error e) :
    step s = .refused .noSuchRow := by
  simp only [step, h, hi]

theorem issueFetch_of_not_cmd {sel : Selector} (h : ∀ op, sel ≠ .cmd op) (rest : List HostEvent)
    (s : State) : issueFetch sel rest s = { s with host := rest } := by
  cases sel with
  | cmd op => exact absurd rfl (h op)
  | nav | tagDec | tagEnc | byte0 | sub => rfl

/-- Everything a step can do: nothing, a write of the host, a reset, or a well-formed operation. -/
theorem step_next_cases {s t : State} (h : step s = .next t) :
    (s.host = [] ∧ t = s) ∨
    (∃ w rest, s.host = .write w :: rest ∧ t = hostWrite w { s with host := rest }) ∨
    (∃ policy mask rest, s.host = .reset policy mask :: rest ∧
      t = resetBlock policy mask { s with host := rest }) ∨
    (∃ sel rest i, s.host = .issue sel :: rest ∧ decode sel = .ok i ∧
      exec i (issueFetch sel rest s) = .next t) := by
  match hh : s.host with
  | [] => rw [step_idle hh] at h; cases h; exact .inl ⟨rfl, rfl⟩
  | .write w :: rest => rw [step_write hh] at h; cases h; exact .inr (.inl ⟨w, rest, rfl, rfl⟩)
  | .reset policy mask :: rest =>
    rw [step_reset hh] at h; cases h; exact .inr (.inr (.inl ⟨policy, mask, rest, rfl, rfl⟩))
  | .issue sel :: rest =>
    cases hd : decode sel with
    | error e => rw [step_issue_of_reject hh hd] at h; cases h
    | ok i => rw [step_issue hh hd] at h; exact .inr (.inr (.inr ⟨sel, rest, i, rfl, hd, h⟩))

/-! Everything an operation can answer. -/

/-- An operand outside its row matters to the meaning of `CSUM` alone, which then gives no next state. -/
theorem exists_wellFormed_of_exec_next {i : Instr} {s t : State} (h : exec i s = .next t) :
    ∃ j : Instr, j.wellFormed = true ∧ exec j s = .next t := by
  cases i with
  | illegal code => exact ⟨.illegal 0, rfl, h⟩
  | aDec nav => exact ⟨.aDec 0, rfl, h⟩
  | routeOutOfSet nav => exact ⟨.routeOutOfSet 8, rfl, h⟩
  | scNoneDec tag => exact ⟨.scNoneDec 10, rfl, h⟩
  | csum lo hi =>
    by_cases hr : lo ≤ hi ∧ hi < pktLen
    · exact ⟨.csum lo hi, by simpa [Instr.wellFormed] using hr, h⟩
    · rw [exec_of_not_wellFormed_csum hr] at h; cases h
  | _ => exact ⟨_, rfl, h⟩

/-- Held back by `FAULT`, an effect inside the frame, or a violation. -/
theorem exec_next_cases {i : Instr} {s t : State} (h : exec i s = .next t) :
    (s.fault = true ∧ t = endFaulted s) ∨ (s.fault = false ∧ Effect s t) ∨
      (s.fault = false ∧ t = s.violated) := by
  obtain ⟨j, hw, hj⟩ := exists_wellFormed_of_exec_next h
  obtain ⟨r, hr, heffect⟩ := exec_gate j s hw
  rw [hr] at hj
  rcases runOp_next hj with ⟨hf, ht⟩ | ⟨hf, ht⟩ | ⟨hf, -, ht⟩
  · exact .inl ⟨hf, ht⟩
  · rcases heffect t ht hf with he | hv
    · exact .inr (.inl ⟨hf, he⟩)
    · exact .inr (.inr ⟨hf, hv⟩)
  · exact .inr (.inr ⟨hf, ht⟩)

theorem exec_completes {i : Instr} (hw : i.wellFormed = true) (s : State) :
    ∃ t, exec i s = .next t := by
  obtain ⟨r, hr, -⟩ := exec_gate i s hw
  exact hr ▸ runOp_completes s r

theorem exec_of_fault {i : Instr} (hw : i.wellFormed = true) {s : State} (hf : s.fault = true) :
    exec i s = .next (endFaulted s) := by
  obtain ⟨r, hr, -⟩ := exec_gate i s hw
  rw [hr, runOp_of_fault hf]

/-! What no operation changes. -/

/-- The registers, lengths and straps that no operation writes. -/
structure Untouched (s t : State) : Prop where
  cmdOp : t.cmdOp = s.cmdOp
  pbLen : t.pbLen = s.pbLen
  sb : t.sb = s.sb
  sbLen : t.sbLen = s.sbLen
  navPolicy : t.navPolicy = s.navPolicy
  chkRejectMask : t.chkRejectMask = s.chkRejectMask
  sbMax : t.sbMax = s.sbMax
  num : t.num = s.num
  host : t.host = s.host

theorem untouched_of_exec {i : Instr} {s t : State} (h : exec i s = .next t) : Untouched s t := by
  rcases exec_next_cases h with ⟨-, rfl⟩ | ⟨-, he⟩ | ⟨-, rfl⟩
  · exact ⟨rfl, rfl, rfl, rfl, rfl, rfl, rfl, rfl, rfl⟩
  · exact ⟨he.cmdOp, he.pbLen, he.sb, he.sbLen, he.navPolicy, he.chkRejectMask, he.sbMax, he.num,
      he.host⟩
  · exact ⟨rfl, rfl, rfl, rfl, rfl, rfl, rfl, rfl, rfl⟩

/-! The invariant, update by update. -/

section
variable {s t : State}

/-- The invariant speaks of the buffers, `STATUS` and `FAULT` alone. -/
theorem inv_congr (h : s.Inv) (hsp : t.sp = s.sp) (hpb : t.pb = s.pb) (hsb : t.sb = s.sb)
    (hst : t.status = s.status) (hf : t.fault = s.fault) : t.Inv :=
  ⟨hsp ▸ h.sp_wf, hpb ▸ h.pb_wf, hsb ▸ h.sb_wf, hsp ▸ h.sp_inside, hpb ▸ h.pb_inside,
    hst ▸ h.status_written, hf ▸ hst ▸ h.faulted_iff⟩

theorem inv_endFaulted (h : s.Inv) (hf : s.fault = true) : (endFaulted s).Inv :=
  ⟨h.sp_wf, h.pb_wf, h.sb_wf, h.sp_inside, h.pb_inside, by simp, iff_of_true hf rfl⟩

theorem inv_violated (h : s.Inv) : s.violated.Inv := by
  rw [← raise_preconditionViolation_eq]
  exact ⟨h.sp_wf, h.pb_wf, h.sb_wf, h.sp_inside, h.pb_inside, by simp, iff_of_true rfl rfl⟩

/-- A range write that lies inside a space keeps the canonical form and the space. -/
theorem writeRange_inside {m : Memory} {n a : Nat} {bytes : List Byte} (hm : ∀ c ∈ m, c.1 < n)
    (h : a + bytes.length ≤ n) : ∀ c ∈ m.writeRange a bytes, c.1 < n := by
  intro c hc
  rcases mem_writeRange hc with ⟨-, hlt⟩ | hc
  · omega
  · exact hm c hc

theorem inv_of_effect (h : s.Inv) (hf : s.fault = false) (he : Effect s t) : t.Inv := by
  have hstatus : s.status ≠ statusFaulted := fun hc => by rw [h.faulted_iff.2 hc] at hf; cases hf
  have htf : t.fault = false := he.fault.trans hf
  have hts : t.status ∈ [statusOk, statusErrShort, statusErrSync, statusErrNav, statusFaulted] ∧
      t.status ≠ statusFaulted := by
    rcases he.status with hs | hs
    · rw [hs]; exact ⟨h.status_written, hstatus⟩
    · refine ⟨List.mem_append_left [statusFaulted] hs, fun hc => ?_⟩
      rw [hc] at hs
      revert hs
      decide
  have hsp : t.sp.wf ∧ ∀ c ∈ t.sp, c.1 < payLen := by
    rcases he.sp with hs | ⟨bytes, hl, hs⟩ <;> rw [hs]
    · exact ⟨h.sp_wf, h.sp_inside⟩
    · exact ⟨wf_writeRange h.sp_wf 0 bytes, writeRange_inside h.sp_inside (by omega)⟩
  have hpb : t.pb.wf ∧ ∀ c ∈ t.pb, c.1 < pktLen := by
    rcases he.pb with hs | ⟨a, bytes, hl, hs⟩ <;> rw [hs]
    · exact ⟨h.pb_wf, h.pb_inside⟩
    · exact ⟨wf_writeRange h.pb_wf a bytes, writeRange_inside h.pb_inside hl⟩
  exact ⟨hsp.1, hpb.1, he.sb ▸ h.sb_wf, hsp.2, hpb.2, hts.1,
    iff_of_false (by simp [htf]) hts.2⟩

theorem inv_of_exec {i : Instr} (h : s.Inv) (hx : exec i s = .next t) : t.Inv := by
  rcases exec_next_cases hx with ⟨hf, rfl⟩ | ⟨hf, he⟩ | ⟨-, rfl⟩
  · exact inv_endFaulted h hf
  · exact inv_of_effect h hf he
  · exact inv_violated h

theorem inv_issueFetch (h : s.Inv) (sel : Selector) (rest : List HostEvent) :
    (issueFetch sel rest s).Inv :=
  inv_congr h (issueFetch_sp ..) (issueFetch_pb ..) (issueFetch_sb ..) (issueFetch_status ..)
    (issueFetch_fault ..)

theorem inv_hostWrite (h : s.Inv) (w : HostWrite) : (hostWrite w s).Inv := by
  obtain ⟨hf, hst, -⟩ := hostWrite_keeps w s
  obtain ⟨hsp, hpb, hsb⟩ := hostWrite_buffers w s
  have hsp' : (hostWrite w s).sp.wf ∧ ∀ c ∈ (hostWrite w s).sp, c.1 < payLen := by
    rcases hsp with he | ⟨b, hl, he⟩ <;> rw [he]
    · exact ⟨h.sp_wf, h.sp_inside⟩
    · exact ⟨wf_ofBytes b, fun c hc => lt_of_lt_of_le (mem_ofBytes hc) hl⟩
  have hpb' : (hostWrite w s).pb.wf ∧ ∀ c ∈ (hostWrite w s).pb, c.1 < pktLen := by
    rcases hpb with he | ⟨b, hl, he⟩ <;> rw [he]
    · exact ⟨h.pb_wf, h.pb_inside⟩
    · exact ⟨wf_ofBytes b, fun c hc => lt_of_lt_of_le (mem_ofBytes hc) hl⟩
  have hsb' : (hostWrite w s).sb.wf := by
    rcases hsb with he | ⟨b, he⟩ <;> rw [he]
    · exact h.sb_wf
    · exact wf_ofBytes b
  exact ⟨hsp'.1, hpb'.1, hsb', hsp'.2, hpb'.2, hst ▸ h.status_written, hf ▸ hst ▸ h.faulted_iff⟩

/-- Empty buffers and a clear `FAULT` with `STATUS = OK` satisfy the invariant. -/
theorem inv_of_empty (hsp : s.sp = []) (hpb : s.pb = []) (hsb : s.sb = []) (hf : s.fault = false)
    (hst : s.status = 0) : s.Inv := by
  constructor
  case faulted_iff => rw [hf, hst]; decide
  case status_written => rw [hst]; decide
  all_goals simp [hsp, hpb, hsb, Memory.wf]

end

/-- Settles O4: the rows one by one in the one direction, the dispatch points in the other. -/
theorem decodeAndEncodeAgree : Obligations.DecodeAndEncodeAgree :=
  ⟨fun _ => decode_encode, fun _ _ => encode_of_decode⟩

/-- Settles O10: the invariant is kept by each of the four things a step can be. -/
theorem stepKeepsInvariant : Obligations.StepKeepsInvariant := by
  intro s t h hstep
  rcases step_next_cases hstep with ⟨-, rfl⟩ | ⟨w, rest, -, rfl⟩ | ⟨policy, mask, rest, -, rfl⟩ |
    ⟨sel, rest, i, -, -, hx⟩
  · exact h
  · have hrest : State.Inv { s with host := rest } := inv_congr h rfl rfl rfl rfl rfl
    exact inv_hostWrite hrest w
  · exact inv_of_empty rfl rfl rfl rfl rfl
  · exact inv_of_exec (inv_issueFetch h sel rest) hx

/-- Settles O11: the base case of O10. -/
theorem resetSatisfiesInvariant : Obligations.ResetSatisfiesInvariant :=
  inv_of_empty rfl rfl rfl rfl rfl

/-- Settles O5: `CMD.OP` is written by a command code and by no other selector. -/
theorem stepRunsDecodedOperation : Obligations.StepRunsDecodedOperation := by
  refine fun s rest i _ => ⟨fun op hh hi => step_issue hh hi, fun sel hh hsel hi => ?_⟩
  rw [step_issue hh hi, issueFetch_of_not_cmd hsel]

/-- Settles O6: the state that a reset leaves, field by field. -/
theorem resetEventRestoresResetState : Obligations.ResetEventRestoresResetState :=
  fun _ _ _ _ hh => ⟨_, step_reset hh, rfl, rfl, rfl, rfl, rfl, rfl, rfl, rfl, rfl, read_nil, read_nil,
    rfl, read_nil, rfl, rfl, rfl, rfl, rfl, rfl⟩

/-- Settles O7: `State.reset`, field by field. -/
theorem resetStateHoldsResetValues : Obligations.ResetStateHoldsResetValues :=
  ⟨rfl, rfl, rfl, rfl, rfl, rfl, rfl, rfl, rfl, read_nil, read_nil, rfl, read_nil, rfl, rfl, rfl⟩

/-! Scripts of the host (log entry 1). -/

/-- A step over an event of the host goes on, and leaves a rest of the script. -/
theorem step_of_host_events {s : State} (h : ∀ e ∈ s.host, e.isHosts = true) :
    ∃ t, step s = .next t ∧ ∀ e ∈ t.host, e.isHosts = true := by
  match hh : s.host with
  | [] => exact ⟨s, step_idle hh, h⟩
  | .write w :: rest =>
    obtain ⟨-, -, -, -, -, -, -, -, -, -, hhost⟩ := hostWrite_keeps w { s with host := rest }
    refine ⟨_, step_write hh, fun e he => h e ?_⟩
    rw [hhost] at he
    exact hh ▸ List.mem_cons_of_mem _ he
  | .reset policy mask :: rest =>
    exact ⟨_, step_reset hh, fun e he => h e (hh ▸ List.mem_cons_of_mem _ he)⟩
  | .issue (.cmd op) :: rest =>
    obtain ⟨t, ht⟩ := exec_completes (decodeCmd_wellFormed op) (issueFetch (.cmd op) rest s)
    refine ⟨t, (step_issue hh (decode_cmd op)).trans ht, fun e he => h e ?_⟩
    rw [(untouched_of_exec ht).host, issueFetch_host] at he
    exact hh ▸ List.mem_cons_of_mem _ he
  | .issue (.nav _) :: _ | .issue (.tagDec _) :: _ | .issue (.tagEnc _) :: _
  | .issue (.byte0 _ _) :: _ | .issue (.sub _) :: _ =>
    rw [hh] at h
    cases h _ List.mem_cons_self

theorem run_succ_of_step (k : Nat) {s t : State} (h : step s = .next t) :
    Host.Core.run core (k + 1) s = Host.Core.run core k t := by
  have hcore : core.step s = .next t := h
  simp only [Host.Core.run, hcore]

theorem safeRun_of_host_events (k : Nat) {s : State} (h : ∀ e ∈ s.host, e.isHosts = true) :
    SafeRun k s := by
  induction k generalizing s with
  | zero => exact ⟨s, rfl⟩
  | succ k ih =>
    obtain ⟨t, hstep, ht⟩ := step_of_host_events h
    obtain ⟨u, hu⟩ := ih ht
    exact ⟨u, (run_succ_of_step k hstep).trans hu⟩

/-- Settles O8: every operation runs through the gate, and a script of the host meets no other selector
than a command code. -/
theorem hostScriptsNeverStop : Obligations.HostScriptsNeverStop :=
  ⟨fun _ s hw => exec_completes hw s, fun k _ => safeRun_of_host_events k⟩

/-- Settles O9: of the three answers of the gate only a violation sets `FAULT`, and of the four kinds of
step only a reset clears it. -/
theorem faultIsStickyUntilReset : Obligations.FaultIsStickyUntilReset := by
  refine ⟨rfl, fun i s hw hf => exec_of_fault hw hf, fun i s t hx hf ht => ?set,
    fun s t hstep hf ht => ?clear⟩
  case set =>
    rcases exec_next_cases hx with ⟨hc, -⟩ | ⟨-, he⟩ | ⟨-, hv⟩
    · rw [hf] at hc; cases hc
    · rw [he.fault, hf] at ht; cases ht
    · exact hv
  case clear =>
    rcases step_next_cases hstep with ⟨-, rfl⟩ | ⟨w, rest, -, rfl⟩ | ⟨policy, mask, rest, hh, -⟩ |
      ⟨sel, rest, i, -, -, hx⟩
    · rw [hf] at ht; cases ht
    · rw [(hostWrite_keeps w _).1] at ht
      exact absurd (ht.symm.trans hf) Bool.false_ne_true
    · exact ⟨policy, mask, rest, hh⟩
    · rcases exec_next_cases hx with ⟨-, rfl⟩ | ⟨hc, -⟩ | ⟨-, rfl⟩
      · rw [endFaulted_fault, issueFetch_fault, hf] at ht; cases ht
      · rw [issueFetch_fault, hf] at hc; cases hc
      · cases ht

/-- Settles O12: no operation and no write touches the straps, `SB_MAX` or `NUM`, and a reset samples
the straps. -/
theorem configurationChangesOnlyAtReset : Obligations.ConfigurationChangesOnlyAtReset := by
  intro s t hstep
  rcases step_next_cases hstep with ⟨-, rfl⟩ | ⟨w, rest, -, rfl⟩ | ⟨policy, mask, rest, hh, rfl⟩ |
    ⟨sel, rest, i, -, -, hx⟩
  · exact ⟨rfl, rfl, .inl ⟨rfl, rfl⟩⟩
  · obtain ⟨-, -, -, -, -, hpol, hmask, hmax, hnum, -⟩ := hostWrite_keeps w { s with host := rest }
    exact ⟨hmax, hnum, .inl ⟨hpol, hmask⟩⟩
  · exact ⟨rfl, rfl, .inr ⟨rest, hh⟩⟩
  · have hu := untouched_of_exec hx
    exact ⟨hu.sbMax.trans (issueFetch_sbMax ..), hu.num.trans (issueFetch_num ..),
      .inl ⟨hu.navPolicy.trans (issueFetch_navPolicy ..),
        hu.chkRejectMask.trans (issueFetch_chkRejectMask ..)⟩⟩

end Sys2Proof
end

section
/-! Which operations write which buffers (R58, R271). -/

open Sys2Proof.Machine

namespace Sys2Proof

/-- The buffers that the operation is not one to write stay. -/
structure BufferFrame (i : Instr) (s t : State) : Prop where
  pb : i ∉ [.pktEnc, .aEnc, .bEnc] → t.pb = s.pb
  sp : i ∉ [.scEnc, .sc0Enc, .sc1Enc, .sc2Enc, .sc3Enc, .sc4Enc, .sc5Enc, .sc6Enc, .sc7Enc, .sc8Enc,
    .sc9Enc, .scNoneEnc] → t.sp = s.sp
  fxBytes : i ∉ [.enc24, .i24Pack] → t.fx.b0 = s.fx.b0 ∧ t.fx.b1 = s.fx.b1 ∧ t.fx.b2 = s.fx.b2
  scan : i ∉ [.scan, .scanInit, .scanStep, .sync .candidate] → t.scanPos = s.scanPos ∧ t.outq = s.outq

section
variable {i : Instr} {s t : State}

/-- An operation none of the four sets names leaves all of them. -/
theorem bufferFrame_of_eq (hpb : t.pb = s.pb) (hsp : t.sp = s.sp) (hfx : t.fx = s.fx)
    (hpos : t.scanPos = s.scanPos) (hq : t.outq = s.outq) : BufferFrame i s t :=
  ⟨fun _ => hpb, fun _ => hsp, fun _ => hfx ▸ ⟨rfl, rfl, rfl⟩, fun _ => ⟨hpos, hq⟩⟩

theorem bufferFrame_complete (h : BufferFrame i s t) : BufferFrame i s (complete t) :=
  ⟨h.pb, h.sp, h.fxBytes, h.scan⟩

theorem bufferFrame_advanceFree (k : Nat) (h : BufferFrame i s t) :
    BufferFrame i s (advanceFree k t) :=
  ⟨h.pb, h.sp, h.fxBytes, h.scan⟩

/-- An operation that writes `PB`. -/
theorem bufferFrame_putPb (hi : i ∈ [.pktEnc, .aEnc, .bEnc]) (m : Memory) :
    BufferFrame i s { s with pb := m } :=
  ⟨fun hn => absurd hi hn, fun _ => rfl, fun _ => ⟨rfl, rfl, rfl⟩, fun _ => ⟨rfl, rfl⟩⟩

/-- An operation that writes `SP`, and the tag byte or not. -/
theorem bufferFrame_putSp (hi : i ∈ [.scEnc, .sc0Enc, .sc1Enc, .sc2Enc, .sc3Enc, .sc4Enc, .sc5Enc,
    .sc6Enc, .sc7Enc, .sc8Enc, .sc9Enc, .scNoneEnc]) (m : Memory) (tag : Option Byte) :
    BufferFrame i s { s with sp := m, scTagByte := tag } :=
  ⟨fun _ => rfl, fun hn => absurd hi hn, fun _ => ⟨rfl, rfl, rfl⟩, fun _ => ⟨rfl, rfl⟩⟩

/-- An operation of the fixed-point registers: its bytes stay, or it is one that writes them. -/
theorem bufferFrame_of_fx (hpb : t.pb = s.pb) (hsp : t.sp = s.sp)
    (hfx : i ∈ [.enc24, .i24Pack] ∨ t.fx.b0 = s.fx.b0 ∧ t.fx.b1 = s.fx.b1 ∧ t.fx.b2 = s.fx.b2)
    (hpos : t.scanPos = s.scanPos) (hq : t.outq = s.outq) : BufferFrame i s t :=
  ⟨fun _ => hpb, fun _ => hsp, fun hn => hfx.resolve_left hn, fun _ => ⟨hpos, hq⟩⟩

/-- An operation of the scanner. -/
theorem bufferFrame_of_scan (hi : i ∈ [.scan, .scanInit, .scanStep, .sync .candidate])
    (hpb : t.pb = s.pb) (hsp : t.sp = s.sp) (hfx : t.fx = s.fx) : BufferFrame i s t :=
  ⟨fun _ => hpb, fun _ => hsp, fun _ => hfx ▸ ⟨rfl, rfl, rfl⟩, fun hn => absurd hi hn⟩

/-- Held back or a violation: no buffer changes. -/
theorem bufferFrame_of_runOp {r : Option State} (h : runOp s r = .next t)
    (hr : r = some t → BufferFrame i s t) : BufferFrame i s t := by
  rcases runOp_next h with ⟨-, rfl⟩ | ⟨-, ht⟩ | ⟨-, -, rfl⟩
  · exact bufferFrame_of_eq rfl rfl rfl rfl rfl
  · exact hr ht
  · exact bufferFrame_of_eq rfl rfl rfl rfl rfl

/-- The operations whose operands are one reading: it is enough to look at their effect. -/
theorem bufferFrame_of_map {α : Type} {o : Option α} {g : α → State}
    (h : runOp s (o.map g) = .next t) (hg : ∀ a, BufferFrame i s (g a)) : BufferFrame i s t :=
  bufferFrame_of_runOp h fun hr => by
    obtain ⟨a, -, rfl⟩ := Option.map_eq_some_iff.1 hr
    exact hg a

theorem bufferFrame_raise (e : Err) (s : State) : BufferFrame i s (raise e s) :=
  bufferFrame_of_eq (raise_pb e s) (raise_sp e s) (raise_fx e s) (raise_scanPos e s) (raise_outq e s)

theorem bufferFrame_putPacket (p : Packet) (s : State) : BufferFrame i s (putPacket p s) :=
  bufferFrame_of_eq (putPacket_pb p s) (putPacket_sp p s) (putPacket_fx p s)
    (putPacket_scanPos p s) (putPacket_outq p s)

theorem bufferFrame_bodyDecA (h : bodyDecA s = some t) : BufferFrame i s t := by
  obtain ⟨a, -, rfl⟩ := Option.map_eq_some_iff.1 h
  exact bufferFrame_of_eq rfl rfl rfl rfl rfl

theorem exec_packetEncoder_bufferFrame (hi : i ∈ [.pktEnc, .aEnc, .bEnc]) (h : exec i s = .next t) :
    BufferFrame i s t := by
  simp only [List.mem_cons, List.not_mem_nil, or_false] at hi
  rcases hi with rfl | rfl | rfl
  · exact bufferFrame_of_map h fun _ =>
      bufferFrame_complete (bufferFrame_advanceFree _ (bufferFrame_putPb (by simp) _))
  · exact bufferFrame_of_map h fun _ => bufferFrame_advanceFree _ (bufferFrame_putPb (by simp) _)
  · exact bufferFrame_of_map h fun _ => bufferFrame_putPb (by simp) _

/-- The encode rows of the ten tags. -/
theorem exec_channelRow_bufferFrame (hi : i ∈ [.sc0Enc, .sc1Enc, .sc2Enc, .sc3Enc, .sc4Enc, .sc5Enc,
    .sc6Enc, .sc7Enc, .sc8Enc, .sc9Enc]) (h : exec i s = .next t) : BufferFrame i s t := by
  simp only [List.mem_cons, List.not_mem_nil, or_false] at hi
  rcases hi with rfl | rfl | rfl | rfl | rfl | rfl | rfl | rfl | rfl | rfl
  all_goals exact bufferFrame_of_map h fun _ => bufferFrame_putSp (by simp) _ _

theorem exec_scanner_bufferFrame (hi : i ∈ [.scan, .scanInit, .scanStep]) (h : exec i s = .next t) :
    BufferFrame i s t := by
  simp only [List.mem_cons, List.not_mem_nil, or_false] at hi
  rcases hi with rfl | rfl | rfl
  · refine bufferFrame_of_runOp h fun hr => ?_
    split at hr
    next => cases hr
    next =>
      split at hr
      next => cases hr
      next =>
        obtain ⟨_, -, rfl⟩ := Option.map_eq_some_iff.1 hr
        exact bufferFrame_of_scan (by simp) rfl rfl rfl
  · refine bufferFrame_of_runOp h fun hr => ?_
    split at hr
    next => cases hr
    next =>
      split at hr <;> cases hr
      exact bufferFrame_of_scan (by simp) rfl rfl rfl
  · exact bufferFrame_of_map h fun _ => bufferFrame_of_scan (by simp) rfl rfl rfl

/-- Every operation stays inside its frame, by what its arm of `exec` writes. -/
theorem exec_bufferFrame (h : exec i s = .next t) : BufferFrame i s t := by
  cases i with
  | enc24 =>
    refine bufferFrame_of_runOp h fun hr => ?_
    split at hr <;> cases hr
    exact bufferFrame_of_fx rfl rfl (.inl (by simp)) rfl rfl
  | i24Pack =>
    exact bufferFrame_of_map h fun _ =>
      bufferFrame_of_fx rfl rfl (.inl (by simp)) rfl rfl
  | dec24 =>
    refine bufferFrame_of_runOp h fun hr => ?_
    split at hr <;> cases hr
    exact bufferFrame_of_fx rfl rfl (.inr ⟨rfl, rfl, rfl⟩) rfl rfl
  | quant | dequant =>
    refine bufferFrame_of_runOp h fun hr => ?_
    split at hr <;> cases hr
    exact bufferFrame_of_fx rfl rfl (.inr ⟨rfl, rfl, rfl⟩) rfl rfl
  | i24Unpack =>
    exact bufferFrame_of_map h fun _ =>
      bufferFrame_of_fx rfl rfl (.inr ⟨rfl, rfl, rfl⟩) rfl rfl
  | pktEnc | aEnc | bEnc => exact exec_packetEncoder_bufferFrame (by simp) h
  | sc0Enc | sc1Enc | sc2Enc | sc3Enc | sc4Enc | sc5Enc | sc6Enc | sc7Enc | sc8Enc | sc9Enc =>
    exact exec_channelRow_bufferFrame (by simp) h
  | scEnc =>
    exact bufferFrame_of_map h fun _ => bufferFrame_complete (bufferFrame_putSp (by simp) _ _)
  | scNoneEnc =>
    refine bufferFrame_of_runOp (r := some _) h fun hr => ?_
    obtain rfl := Option.some.inj hr
    exact bufferFrame_putSp (by simp) _ _
  | scan | scanInit | scanStep => exact exec_scanner_bufferFrame (by simp) h
  | sync site =>
    cases site with
    | envelope =>
      refine bufferFrame_of_map h fun _ => ?_
      split
      · exact bufferFrame_of_eq rfl rfl rfl rfl rfl
      · exact bufferFrame_of_eq rfl rfl rfl rfl rfl
    | candidate =>
      refine bufferFrame_of_map h fun _ => ?_
      split_ifs <;>
        exact bufferFrame_of_scan (by simp) rfl rfl rfl
  | pktDec =>
    refine bufferFrame_of_runOp h fun hr => ?_
    split at hr
    next => cases hr
    next =>
      split at hr
      next => cases hr; exact bufferFrame_of_eq rfl rfl rfl rfl rfl
      next =>
        obtain ⟨b, -, rfl⟩ := Option.map_eq_some_iff.1 hr
        split
        next p _ =>
          obtain ⟨hpb, hsp, hfx, hscan⟩ := bufferFrame_putPacket (i := .pktDec) p s
          exact ⟨hpb, hsp, hfx, hscan⟩
        next e _ => exact bufferFrame_raise e s
  | scDec =>
    refine bufferFrame_of_runOp h fun hr => ?_
    split at hr
    next => cases hr
    next =>
      split at hr
      next => cases hr; exact bufferFrame_of_eq rfl rfl rfl rfl rfl
      next =>
        obtain ⟨_, -, rfl⟩ := Option.map_eq_some_iff.1 hr
        exact bufferFrame_of_eq rfl rfl rfl rfl rfl
  | scLookup =>
    refine bufferFrame_of_map h fun _ => ?_
    split <;> exact bufferFrame_of_eq rfl rfl rfl rfl rfl
  | illegal code | bDec | scNoneDec tag =>
    refine bufferFrame_of_runOp (r := some _) h fun hr => ?_
    cases hr
    exact bufferFrame_of_eq rfl rfl rfl rfl rfl
  | aDec nav => exact bufferFrame_of_runOp h bufferFrame_bodyDecA
  | routeOutOfSet nav =>
    refine bufferFrame_of_runOp h fun hr => ?_
    split at hr
    next => cases hr; exact bufferFrame_of_eq rfl rfl rfl rfl rfl
    next => exact bufferFrame_bodyDecA hr
    next => cases hr; exact bufferFrame_of_eq rfl rfl rfl rfl rfl
  | sc0Dec | sc1Dec | sc2Dec | sc3Dec | sc4Dec | sc5Dec | sc6Dec | sc7Dec | sc8Dec | sc9Dec | route =>
    exact bufferFrame_of_map h fun _ => bufferFrame_of_eq rfl rfl rfl rfl rfl
  | csum lo hi =>
    by_cases hr : lo ≤ hi ∧ hi < pktLen
    · have hx : exec (.csum lo hi) s = _ := if_pos hr
      exact bufferFrame_of_map (hx.symm.trans h) fun _ => bufferFrame_of_eq rfl rfl rfl rfl rfl
    · rw [exec_of_not_wellFormed_csum hr] at h; cases h

end

/-- Settles O13: the registers and lengths that no operation writes, and the frame of the buffers. -/
theorem onlyEncodersWriteBuffers : Obligations.OnlyEncodersWriteBuffers := by
  intro i s t h
  have hu := untouched_of_exec h
  have hb := exec_bufferFrame h
  exact ⟨hu.sb, hu.sbLen, hu.pbLen, hu.cmdOp, hu.host, hb.pb, hb.sp, hb.fxBytes, hb.scan⟩

end Sys2Proof
end

section
/-! The statements about the checksum primitive (R130, R131): what it sums, and what a changed byte does to
it. -/

open Sys2Proof.Machine

namespace Sys2Proof

/-! Bytes, slices and sums of a buffer with one byte changed. -/

theorem csumOf_eq_sum8_slice (b : List Byte) (lo hi : Nat) :
    csumOf b lo hi = sum8 (slice b lo (hi + 1 - lo)) := rfl

section
variable {b d : List Byte}

/-- A checksum depends on the bytes of its range alone. -/
theorem csumOf_congr {lo hi : Nat} (h : ∀ k, lo ≤ k → k ≤ hi → b[k]? = d[k]?) :
    csumOf b lo hi = csumOf d lo hi := by
  rw [csumOf, csumOf, slice_congr fun k h1 h2 => h k h1 (by omega)]

/-- The bytes of a range, one of them taken out. -/
theorem csumOf_eq_add_byteAt_add (b : List Byte) {lo i hi : Nat} (hlo : lo ≤ i) (hhi : i ≤ hi)
    (hi' : i < b.length) :
    csumOf b lo hi = sum8 (slice b lo (i - lo)) + byteAt b i + sum8 (slice b (i + 1) (hi - i)) := by
  have hn : hi + 1 - lo = (i - lo) + (1 + (hi - i)) := by omega
  have hone : sum8 (slice b i 1) = byteAt b i := by
    rw [← csumOf_self b hi', csumOf, show i + 1 - i = 1 by omega]
  rw [csumOf, hn, slice_add, slice_add, sum8_append, sum8_append, ← add_assoc,
    Nat.add_sub_cancel' hlo, hone]

theorem getElem?_set_other {i k : Nat} (h : i ≠ k) (x : Byte) : (b.set i x)[k]? = b[k]? :=
  List.getElem?_set_ne h

theorem byteAt_set_same {i : Nat} (h : i < b.length) (x : Byte) : byteAt (b.set i x) i = x := by
  simp [byteAt_eq, h]

theorem byteAt_set_other {i k : Nat} (h : i ≠ k) (x : Byte) : byteAt (b.set i x) k = byteAt b k := by
  rw [byteAt_eq, byteAt_eq, getElem?_set_other h]

theorem slice_set_other {i off n : Nat} (h : i < off ∨ off + n ≤ i) (x : Byte) :
    slice (b.set i x) off n = slice b off n :=
  slice_congr fun _ h1 h2 => getElem?_set_other (by omega) x

theorem getElem?_ne_iff_byteAt_ne {i : Nat} (h : i < b.length) (x : Byte) :
    b[i]? ≠ some x ↔ byteAt b i ≠ x := by
  simp [byteAt_eq, h]

/-- A changed byte inside a range changes the range's checksum by the difference. -/
theorem csumOf_set_ne {lo hi i : Nat} {x : Byte} (hlo : lo ≤ i) (hhi : i ≤ hi) (hi' : i < b.length)
    (hx : b[i]? ≠ some x) : csumOf (b.set i x) lo hi ≠ csumOf b lo hi := by
  rw [csumOf_eq_add_byteAt_add _ hlo hhi (by simpa using hi'), csumOf_eq_add_byteAt_add b hlo hhi hi',
    byteAt_set_same hi', slice_set_other (by omega), slice_set_other (by omega)]
  rw [getElem?_ne_iff_byteAt_ne hi'] at hx
  intro h
  exact hx (add_left_cancel (add_right_cancel h)).symm

theorem csumOf_set_other {lo hi i : Nat} (h : i < lo ∨ hi < i) (x : Byte) :
    csumOf (b.set i x) lo hi = csumOf b lo hi :=
  csumOf_congr fun _ h1 h2 => getElem?_set_other (by omega) x

/-- Each checksum continues the one before it: the stored byte, then the bytes since (R131). -/
theorem csumOf_continue (b : List Byte) {lo mid hi : Nat} (h1 : lo ≤ mid) (h2 : mid + 1 < hi)
    (h3 : mid + 1 < b.length) :
    csumOf b lo hi = csumOf b lo mid + byteAt b (mid + 1) + csumOf b (mid + 2) hi := by
  rw [csumOf_split b h1 (by omega : mid ≤ hi),
    csumOf_split b (le_refl (mid + 1)) (by omega : mid + 1 ≤ hi), csumOf_self b h3, ← add_assoc]

end

/-! The sub-operation. -/

theorem exec_csum_of_range {s : State} {lo hi : Nat} {bytes : List Byte} (hf : s.fault = false)
    (h : lo ≤ hi) (hhi : hi < 72) (hb : s.pb.readRange lo (hi + 1 - lo) = some bytes) :
    exec (.csum lo hi) s = .next { s with csumOut := some (sum8 bytes) } := by
  have hx : exec (.csum lo hi) s = _ := if_pos ⟨h, hhi⟩
  rw [hx, hb, Option.map_some, runOp_some hf]

theorem toNat_sum8 (bytes : List Byte) : (sum8 bytes).toNat = (bytes.map BitVec.toNat).sum % 256 := by
  rw [sum8, BitVec.toNat_ofNat, byteSum_eq_sum]

/-- Settles O26: the range reads back whole, and `sum8` is the sum mod 256. -/
theorem checksumIsByteSum : Obligations.ChecksumIsByteSum := by
  intro s lo hi bytes hf hle hhi hlen hread
  have hb : s.pb.readRange lo (hi + 1 - lo) = some bytes :=
    (readRange_eq_some ..).2 ⟨hlen, fun k hk => hread k (by omega)⟩
  exact ⟨_, exec_csum_of_range hf hle hhi hb, toNat_sum8 bytes⟩

/-- Settles O27: the changed byte is a summand of its range, and the ranges of the three checksums extend
each other. -/
theorem checksumLaws : Obligations.ChecksumLaws :=
  ⟨fun _ _ _ _ _ hlo hhi hi hx => csumOf_set_ne hlo hhi hi hx,
    fun b hb => ⟨csumOf_continue b (by omega) (by omega) (by omega),
      csumOf_continue b (by omega) (by omega) (by omega)⟩⟩

end Sys2Proof
end

section
/-! The statements about the encode of a packet: the layout of structure-A, the body rows on their own, and
the checksum flags that no encode looks at. -/

open Sys2Proof.Machine

namespace Sys2Proof

/-! The operands. -/

theorem packetOperand_of_kind_A {r : PkRegs} {sc : ScRegs} (hk : r.kind = some .A) {a : StructureA}
    (ha : structureAOperand r sc = some a) : packetOperand r sc = some (.structureA a) := by
  simp [packetOperand, hk, ha]

/-- `PK.kind` is no operand of the body rows. -/
theorem structureAOperand_kind (r : PkRegs) (sc : ScRegs) (k : Option Kind) :
    structureAOperand { r with kind := k } sc = structureAOperand r sc := rfl

/-! The states the encodes leave. -/

/-- A structure-A encode draws twelve free values (R122). -/
theorem complete_advanceFree_structureA (a : StructureA) (m : Memory) (s : State) :
    complete (advanceFree (drawsOf (.structureA a)) { s with pb := m }) =
      { s with pb := m, status := 0, freeCtr := s.freeCtr + 12 } := rfl

theorem advanceFree_putPb (k : Nat) (m : Memory) (s : State) :
    advanceFree k { s with pb := m } = { s with pb := m, freeCtr := s.freeCtr + k } := rfl

section
variable {s : State}

/-- R132, R150: `PKT.ENC` of a structure-A record. -/
theorem exec_pktEnc_of_structureA (hf : s.fault = false) (hk : s.pk.kind = some .A) {a : StructureA}
    (ha : structureAOperand s.pk s.sc = some a) :
    exec .pktEnc s = .next { s with
      pb := s.pb.writeRange 0 (pktEncode (numOf s.num) (drawFree s) (.structureA a)),
      status := 0, freeCtr := s.freeCtr + 12 } := by
  rw [exec_pktEnc_of_packet hf (packetOperand_of_kind_A hk ha), complete_advanceFree_structureA]

/-- R150. -/
theorem exec_aEnc_of_structureA (hf : s.fault = false) {a : StructureA}
    (ha : structureAOperand s.pk s.sc = some a) :
    exec .aEnc s = .next { s with
      pb := s.pb.writeRange 1 (bodyA (numOf s.num) (drawFree s) a), freeCtr := s.freeCtr + 12 } := by
  have hx : exec .aEnc s = execAEnc s := rfl
  rw [hx, execAEnc, ha, Option.map_some, runOp_some hf, advanceFree_putPb]

/-- R153. -/
theorem exec_bEnc_of_nav (hf : s.fault = false) {nav : Byte} (hn : s.pk.navigationStatus = some nav) :
    exec .bEnc s = .next { s with pb := s.pb.writeRange 1 (bodyB nav) } := by
  have hx : exec .bEnc s = execBEnc s := rfl
  rw [hx, execBEnc, hn, Option.map_some, runOp_some hf]

end

/-! Fields of an encoded packet. -/

theorem int24At_of_slice {num : NumRec} {b : List Byte} {off : Nat} {free : I32} {v s : F32}
    (h : slice b off 3 = encField num free v s) : Int24At num b off v s :=
  ⟨encInt num free v s, fun q hq => by rw [encInt, hq, Option.getD_some], memRead_encField num h⟩

/-- Byte `k` of an encoded packet, inside its body. -/
theorem getElem?_pktEncode_body (num : NumRec) (free : Nat → I32) (p : Packet) {k : Nat} (h1 : 1 ≤ k)
    (h2 : k ≤ 70) : (pktEncode num free p)[k]? = (bodyOf num free p)[k - 1]? := by
  rw [← slice_pktEncode_body num free p, getElem?_slice, if_pos (by omega), Nat.add_sub_cancel' h1]

section
variable (num : NumRec) (free : Nat → I32) (a : StructureA)

theorem memRead_pktEncode_time :
    memRead (pktEncode num free (.structureA a)) 1 2 = a.time.toNat % 60000 :=
  memRead_of_slice (slice_pktEncode_time num free a)
    (lt_trans (Nat.mod_lt _ (by decide)) (by decide))

theorem memRead_pktEncode_latitude :
    memRead (pktEncode num free (.structureA a)) 23 8 = a.latitude.toNat :=
  memRead_of_slice (slice_pktEncode_latitude num free a) (by simpa using a.latitude.isLt)

theorem memRead_pktEncode_longitude :
    memRead (pktEncode num free (.structureA a)) 31 8 = a.longitude.toNat :=
  memRead_of_slice (slice_pktEncode_longitude num free a) (by simpa using a.longitude.isLt)

theorem memRead_pktEncode_altitude :
    memRead (pktEncode num free (.structureA a)) 39 4 = a.altitude.toNat :=
  memRead_of_slice (slice_pktEncode_altitude num free a) (by simpa using a.altitude.isLt)

theorem byteAt_pktEncode_navigationStatus :
    byteAt (pktEncode num free (.structureA a)) 21 = a.navigationStatus :=
  byteAt_of_slice (slice_pktEncode_navigationStatus num free a)

theorem byteAt_pktEncode_tag :
    byteAt (pktEncode num free (.structureA a)) 62 = tagByteOf a.statusChannel :=
  byteAt_of_slice (slice_pktEncode_tag num free a)

theorem byteAt_pktEncode_checksum1 :
    byteAt (pktEncode num free (.structureA a)) 22 = csumOf (pktEncode num free (.structureA a)) 1 21 :=
  byteAt_of_slice (slice_pktEncode_checksum1 num free a)

theorem byteAt_pktEncode_checksum2 :
    byteAt (pktEncode num free (.structureA a)) 61 = csumOf (pktEncode num free (.structureA a)) 1 60 :=
  byteAt_of_slice (slice_pktEncode_checksum2 num free a)

theorem byteAt_pktEncode_checksum3 (p : Packet) :
    byteAt (pktEncode num free p) 71 = csumOf (pktEncode num free p) 1 70 :=
  byteAt_of_slice (slice_pktEncode_checksum3 num free p)

theorem byteAt_pktEncode_sync (p : Packet) : byteAt (pktEncode num free p) 0 = 0xE7 :=
  byteAt_of_slice (slice_pktEncode_sync num free p)

end

/-- Settles O28: the state `PKT.ENC` leaves, and each field from the slice it stands in. -/
theorem encodeStructureALayout : Obligations.EncodeStructureALayout := by
  intro s a hf hk ha
  let num := numOf s.num
  let free := drawFree s
  exact ⟨_, pktEncode num free (.structureA a), exec_pktEnc_of_structureA hf hk ha,
    length_pktEncode .., storedAt_writeRange s.pb 0 _,
    byteAt_pktEncode_sync num free _, memRead_pktEncode_time num free a,
    int24At_of_slice (slice_pktEncode_accelerationX num free a),
    int24At_of_slice (slice_pktEncode_accelerationY num free a),
    int24At_of_slice (slice_pktEncode_accelerationZ num free a),
    int24At_of_slice (slice_pktEncode_angularRateX num free a),
    int24At_of_slice (slice_pktEncode_angularRateY num free a),
    int24At_of_slice (slice_pktEncode_angularRateZ num free a),
    byteAt_pktEncode_navigationStatus num free a, byteAt_pktEncode_checksum1 num free a,
    memRead_pktEncode_latitude num free a, memRead_pktEncode_longitude num free a,
    memRead_pktEncode_altitude num free a,
    int24At_of_slice (slice_pktEncode_velocityNorth num free a),
    int24At_of_slice (slice_pktEncode_velocityEast num free a),
    int24At_of_slice (slice_pktEncode_velocityDown num free a),
    int24At_of_slice (slice_pktEncode_heading num free a),
    int24At_of_slice (slice_pktEncode_pitch num free a),
    int24At_of_slice (slice_pktEncode_roll num free a),
    byteAt_pktEncode_checksum2 num free a, byteAt_pktEncode_tag num free a,
    slice_pktEncode_payload num free a, byteAt_pktEncode_checksum3 num free _⟩

/-- Settles O30: both body rows are a range write at offset 1, and the packet's bytes 1 to 70 are the
body. -/
theorem bodyEncodersWriteTheBody : Obligations.BodyEncodersWriteTheBody := by
  refine ⟨fun s a hf ha => ?structureA, fun s nav hf hn => ?structureB⟩
  case structureB => exact ⟨_, exec_bEnc_of_nav hf hn, storedAt_writeRange s.pb 1 (bodyB nav)⟩
  case structureA =>
    refine ⟨_, bodyA (numOf s.num) (drawFree s) a, exec_aEnc_of_structureA hf ha,
      storedAt_writeRange s.pb 1 _, length_bodyA .., fun t ht k h1 h2 => ?_⟩
    have ht' := exec_pktEnc_of_structureA (s := { s with pk := { s.pk with kind := some .A } }) hf rfl
      ((structureAOperand_kind s.pk s.sc (some .A)).trans ha)
    rw [ht'] at ht
    obtain rfl := (Host.Outcome.next.inj ht).symm
    have hbody : bodyOf (numOf s.num) (drawFree s) (.structureA a) =
      bodyA (numOf s.num) (drawFree s) a := rfl
    rw [read_writeRange, read_writeRange, if_pos (by rw [length_pktEncode]; omega),
      if_pos (by rw [length_bodyA]; omega), ← hbody]
    exact getElem?_pktEncode_body _ _ _ h1 h2

/-- An encode looks at no checksum flag (R276). -/
theorem pktEncode_semantic (num : NumRec) (free : Nat → I32) (p : Packet) :
    pktEncode num free p.semantic = pktEncode num free p := by
  cases p <;> rfl

/-- Settles O31: both packets encode as their semantic fields do. -/
theorem encodeIgnoresChecksumFlags : Obligations.EncodeIgnoresChecksumFlags := by
  intro num free p q h
  have hpq : p.semantic = q.semantic := beq_iff_eq.1 h
  rw [← pktEncode_semantic num free p, hpq, pktEncode_semantic]

end Sys2Proof
end

section
/-! The statements about the decode of a packet: its errors, the fields it delivers, the rows of byte 21 on
their own, the round trip, and what one changed byte does. -/

open Sys2Proof.Machine

namespace Sys2Proof

/-! The route (R135). -/

theorem exec_route_of_byte {s : State} {nav : Byte} (hf : s.fault = false)
    (h : s.pb.read 21 = some nav) :
    exec .route s = .next { s with routeOut := some (routeOf s.navPolicy nav) } := by
  have hx : exec .route s = execRoute s := rfl
  have h' : s.pb.read offNav = some nav := h
  rw [hx, execRoute, h', Option.map_some, runOp_some hf]

/-- R135: the allowed values route to structure-A under every policy, an out-of-set status only under
`ACCEPT_A`. -/
theorem routeOf_eq_A {policy : BitVec 2} {nav : Byte}
    (h : nav ∈ ([0, 1, 2, 3, 4, 5, 6, 7, 10, 20, 21, 22] : List Byte) ∨ (nav ≠ 11 ∧ policy = 1)) :
    routeOf policy nav = .A := by
  rcases h with h | ⟨hB, rfl⟩
  · exact routeOf_allowed policy h
  · rw [routeOf_eq, if_neg hB, if_pos (rfl : (1 : BitVec 2) = 1), ite_self]

theorem routeOf_eq_reject {policy : BitVec 2} {nav : Byte} (hB : nav ≠ 11)
    (hA : nav ∉ ([0, 1, 2, 3, 4, 5, 6, 7, 10, 20, 21, 22] : List Byte)) (h1 : policy ≠ 1)
    (h2 : policy ≠ 2) : routeOf policy nav = .reject := by
  rw [routeOf_eq, if_neg hB, if_neg hA, if_neg h1, if_neg h2]

/-- Settles O25: the answer is `routeOf`, line by line. -/
theorem routeFollowsPolicy : Obligations.RouteFollowsPolicy := by
  intro s nav hf h
  rw [exec_route_of_byte hf h, routeOf_eq]

/-! The errors of a decode. -/

section
variable {s : State} {len : Nat} {b : List Byte}

theorem exec_pktDec_of_short (hf : s.fault = false) (hl : s.pbLen = some len) (h : len < 72) :
    exec .pktDec s = .next (raise .structuralShort s) := by
  have hx : exec .pktDec s = execPktDec s := rfl
  have h' : len < pktLen := h
  simp only [hx, execPktDec, hl, if_pos h', runOp_some hf]

theorem exec_pktDec_of_error (hf : s.fault = false) (hl : s.pbLen = some len) (h : 72 ≤ len)
    (hb : pbOperand s = some b) {e : Err}
    (he : pktDecode (numOf s.num) s.navPolicy len b = .error e) :
    exec .pktDec s = .next (raise e s) := by
  rw [exec_pktDec_of_bytes hf hl h hb, he]

/-- R134: the state `PKT.DEC` leaves for a framed packet that routes to structure-A. -/
theorem exec_pktDec_of_route_A (hf : s.fault = false) (hl : s.pbLen = some len) (h : 72 ≤ len)
    (hb : pbOperand s = some b) (h0 : byteAt b 0 = 0xE7) (hr : routeOf s.navPolicy (byteAt b 21) = .A) :
    exec .pktDec s = .next (complete (putPacket (.structureA (decodeA (numOf s.num) b)) s)) := by
  rw [exec_pktDec_of_bytes hf hl h hb, pktDecode_routed _ _ h h0, hr]

end

/-- Settles O32: the length, the sync byte and the route are tested in this order. -/
theorem decodeErrorsInOrder : Obligations.DecodeErrorsInOrder := by
  refine fun s hf => ⟨fun len hl h => exec_pktDec_of_short hf hl h, fun len b hl h hb =>
    ⟨fun h0 => ?sync, fun h0 hB hA h1 h2 => ?nav⟩⟩
  case sync => exact exec_pktDec_of_error hf hl h hb (pktDecode_notSync _ _ h h0)
  case nav =>
    have he : pktDecode (numOf s.num) s.navPolicy len b = .error .unrecognizedNav := by
      rw [pktDecode_routed _ _ h h0, routeOf_eq_reject hB hA h1 h2]
    exact exec_pktDec_of_error hf hl h hb he

/-! The fields of structure-A, in the words of the statements. -/

theorem chk1Ok_eq_decide (b : List Byte) : chk1Ok b = decide (csumOf b 1 21 = byteAt b 22) := rfl

theorem chk2Ok_eq_decide (b : List Byte) : chk2Ok b = decide (csumOf b 1 60 = byteAt b 61) := rfl

theorem chk3Ok_eq_decide (b : List Byte) : chk3Ok b = decide (csumOf b 1 70 = byteAt b 71) := rfl

/-- R152 with the layout of R71. -/
theorem pkOfA_decodeA (num : NumRec) {b : List Byte} (hb : b.length = 72) :
    pkOfA (decodeA num b) = {
      kind := some .A, navigationStatus := some (byteAt b 21),
      time := some (BitVec.ofNat 16 (memRead b 1 2)),
      accelerationX := some (int24Value num b 3 0x38D1B717),
      accelerationY := some (int24Value num b 6 0x38D1B717),
      accelerationZ := some (int24Value num b 9 0x38D1B717),
      angularRateX := some (int24Value num b 12 0x3727C5AC),
      angularRateY := some (int24Value num b 15 0x3727C5AC),
      angularRateZ := some (int24Value num b 18 0x3727C5AC),
      checksum1Valid := some (decide (csumOf b 1 21 = byteAt b 22)),
      latitude := some (BitVec.ofNat 64 (memRead b 23 8)),
      longitude := some (BitVec.ofNat 64 (memRead b 31 8)),
      altitude := some (BitVec.ofNat 32 (memRead b 39 4)),
      velocityNorth := some (int24Value num b 43 0x38D1B717),
      velocityEast := some (int24Value num b 46 0x38D1B717),
      velocityDown := some (int24Value num b 49 0x38D1B717),
      heading := some (int24Value num b 52 0x358637BD),
      pitch := some (int24Value num b 55 0x358637BD),
      roll := some (int24Value num b 58 0x358637BD),
      checksum2Valid := some (decide (csumOf b 1 60 = byteAt b 61)),
      checksum3Valid := some (decide (csumOf b 1 70 = byteAt b 71)) } := by
  have hfield : ∀ off sc, off + 3 ≤ 72 → decField num b off sc = int24Value num b off sc :=
    fun off sc h => decField_eq_int24Value num (hb ▸ h) sc
  rw [← hfield 3 _ (by omega), ← hfield 6 _ (by omega), ← hfield 9 _ (by omega),
    ← hfield 12 _ (by omega), ← hfield 15 _ (by omega), ← hfield 18 _ (by omega),
    ← hfield 43 _ (by omega), ← hfield 46 _ (by omega), ← hfield 49 _ (by omega),
    ← hfield 52 _ (by omega), ← hfield 55 _ (by omega), ← hfield 58 _ (by omega)]
  rfl

theorem statusChannel_decodeA (num : NumRec) (b : List Byte) :
    (decodeA num b).statusChannel = channelOf (byteAt b 62) (slice b 63 8) := rfl

theorem complete_putPacket_structureA (a : StructureA) (s : State) :
    complete (putPacket (.structureA a) s) =
      { s with status := 0, pk := pkOfA a, sc := scOfChannel a.statusChannel } := rfl

/-- Settles O33: the packet routes to structure-A, and the record holds the fields of `pkOfA_decodeA`. -/
theorem decodeStructureAFields : Obligations.DecodeStructureAFields := by
  intro s len b hf hl h hb h0 h21
  have hlen : b.length = 72 := ((pbOperand_eq_some s b).1 hb).1
  rw [exec_pktDec_of_route_A hf hl h hb h0 (routeOf_eq_A h21), complete_putPacket_structureA,
    pkOfA_decodeA _ hlen, statusChannel_decodeA]

/-! The rows of byte 21 (R100 (2), R135). -/

theorem exec_bDec {s : State} (hf : s.fault = false) : exec .bDec s = .next s := runOp_some hf s

theorem exec_aDec_eq_runOp (nav : Byte) (s : State) : exec (.aDec nav) s = runOp s (bodyDecA s) := rfl

theorem exec_routeOutOfSet_of_acceptA (nav : Byte) {s : State} (h : s.navPolicy = 1) :
    exec (.routeOutOfSet nav) s = exec (.aDec nav) s := by
  have hp : navPolicyOf s.navPolicy = .acceptA := by rw [h]; rfl
  have hx : exec (.routeOutOfSet nav) s = execRouteOutOfSet s := rfl
  rw [hx, execRouteOutOfSet, hp, exec_aDec_eq_runOp]

theorem exec_routeOutOfSet_of_routeB (nav : Byte) {s : State} (hf : s.fault = false)
    (h : s.navPolicy = 2) : exec (.routeOutOfSet nav) s = .next s := by
  have hp : navPolicyOf s.navPolicy = .routeB := by rw [h]; rfl
  have hx : exec (.routeOutOfSet nav) s = execRouteOutOfSet s := rfl
  rw [hx, execRouteOutOfSet, hp, runOp_some hf]

theorem exec_routeOutOfSet_of_reject (nav : Byte) {s : State} (hf : s.fault = false)
    (h1 : s.navPolicy ≠ 1) (h2 : s.navPolicy ≠ 2) :
    exec (.routeOutOfSet nav) s = .next (raise .unrecognizedNav s) := by
  have hp : navPolicyOf s.navPolicy = .reject := by rw [navPolicyOf, if_neg h1, if_neg h2]
  have hx : exec (.routeOutOfSet nav) s = execRouteOutOfSet s := rfl
  rw [hx, execRouteOutOfSet, hp, runOp_some hf]

/-- The row that byte 21 selects is the body decode that `ROUTE` answers. -/
theorem exec_decodeNav_of_route {s : State} (hf : s.fault = false) (nav : Byte) :
    (routeOf s.navPolicy nav = .A → exec (decodeNav nav) s = runOp s (bodyDecA s)) ∧
      (routeOf s.navPolicy nav = .B → exec (decodeNav nav) s = .next s) := by
  rw [decodeNav_eq_ite, routeOf_eq, navAllowed]
  split_ifs with hB hA h1 h2
  · exact ⟨fun h => h.elim, fun _ => exec_bDec hf⟩
  · exact ⟨fun _ => exec_aDec_eq_runOp nav s, fun h => h.elim⟩
  · exact ⟨fun _ => exec_routeOutOfSet_of_acceptA nav h1, fun h => h.elim⟩
  · exact ⟨fun h => h.elim, fun _ => exec_routeOutOfSet_of_routeB nav hf h2⟩
  · exact ⟨fun h => h.elim, fun h => h.elim⟩

theorem exec_bodyDecA_of_bytes {s : State} (hf : s.fault = false) {b : List Byte} (hl : 71 ≤ b.length)
    (h : ∀ k, 1 ≤ k → k ≤ 70 → s.pb.read k = b[k]?) :
    runOp s (bodyDecA s) = .next (putBodyA (decodeA (numOf s.num) b) s) := by
  rw [bodyDecA_of_bytes hl h, runOp_some hf]

theorem read_of_pbOperand {s : State} {b : List Byte} (h : pbOperand s = some b) :
    ∀ k, 1 ≤ k → k ≤ 70 → s.pb.read k = b[k]? :=
  fun k _ h2 => ((pbOperand_eq_some s b).1 h).2 k (by omega)

/-- Settles O35: with the envelope's fields written, the row of either structure completes the record. -/
theorem decodeRunsTheRoutedRow : Obligations.DecodeRunsTheRoutedRow := by
  intro s len b i hf hl h hb h0 hi r hr
  obtain rfl : decodeNav (byteAt b 21) = i := Except.ok.inj hi
  have hlen : b.length = 72 := ((pbOperand_eq_some s b).1 hb).1
  cases hroute : routeOf s.navPolicy (byteAt b 21) with
  | reject => exact absurd hroute hr
  | A =>
    have hkind : r = .A := hroute
    rw [exec_pktDec_of_route_A hf hl h hb h0 hroute, if_pos hkind,
      (exec_decodeNav_of_route (by exact hf) _).1 (by exact hroute),
      exec_bodyDecA_of_bytes (b := b) (by exact hf) (by omega) (by exact read_of_pbOperand hb), andThen_next]
    rfl
  | B =>
    have hkind : r = .B := hroute
    rw [exec_pktDec_of_route_B hf hl h hb h0 hroute, hkind, if_neg (by decide),
      (exec_decodeNav_of_route (by exact hf) _).2 (by exact hroute), andThen_next]
    rfl

/-- What `A.DEC` leaves: the record of structure-A but for the envelope's registers (R152). -/
theorem putBodyA_eq (a : StructureA) (s : State) :
    putBodyA a s = { s with
      pk := { pkOfA a with
        kind := s.pk.kind, navigationStatus := s.pk.navigationStatus,
        checksum3Valid := s.pk.checksum3Valid }
      sc := scOfChannel a.statusChannel } := rfl

/-- Settles O36: `B.DEC` has no effect, `A.DEC` has the body's, and the out-of-set row is one of the two or
the error, by the policy. -/
theorem routedRowsOnTheirOwn : Obligations.RoutedRowsOnTheirOwn := by
  refine fun s nav hf => ⟨exec_bDec hf, exec_routeOutOfSet_of_routeB nav hf,
    exec_routeOutOfSet_of_reject nav hf,
    fun b hlen hb => ⟨?body, exec_routeOutOfSet_of_acceptA nav⟩⟩
  rw [exec_aDec_eq_runOp, exec_bodyDecA_of_bytes hf (by omega) hb, putBodyA_eq, pkOfA_decodeA _ hlen,
    statusChannel_decodeA]

/-! The round trip (R137). -/

/-- The bytes an encode leaves are the operand of the decode after it. -/
theorem readRange_writeRange_pktEncode (m : Memory) (num : NumRec) (free : Nat → I32) (p : Packet) :
    (m.writeRange 0 (pktEncode num free p)).readRange 0 pktLen = some (pktEncode num free p) := by
  have h := readRange_writeRange m 0 (pktEncode num free p)
  rwa [length_pktEncode] at h

/-- `PKT.ENC` of an allowed structure-A record and then `PKT.DEC`: the record of the encoded bytes. -/
theorem exec_pktEnc_pktDec_of_structureA {s : State} {a : StructureA} {len : Nat} (hf : s.fault = false)
    (hk : s.pk.kind = some .A) (ha : structureAOperand s.pk s.sc = some a) (hlen : 72 ≤ len)
    (hnav : a.navigationStatus ∈ ([0, 1, 2, 3, 4, 5, 6, 7, 10, 20, 21, 22] : List Byte)) :
    ∃ m : Memory, andThen (exec .pktEnc s) (fun u => exec .pktDec { u with pbLen := some len }) =
      .next (complete (putPacket
        (.structureA (decodeA (numOf s.num) (pktEncode (numOf s.num) (drawFree s) (.structureA a))))
        { s with pb := m, status := 0, freeCtr := s.freeCtr + 12, pbLen := some len })) := by
  have henc := exec_pktEnc_of_structureA hf hk ha
  have hread := readRange_writeRange_pktEncode s.pb (numOf s.num) (drawFree s) (.structureA a)
  have hsync := byteAt_pktEncode_sync (numOf s.num) (drawFree s) (.structureA a)
  have hroute : routeOf s.navPolicy
      (byteAt (pktEncode (numOf s.num) (drawFree s) (.structureA a)) 21) = .A := by
    rw [byteAt_pktEncode_navigationStatus]
    exact routeOf_allowed s.navPolicy hnav
  generalize pktEncode (numOf s.num) (drawFree s) (.structureA a) = b at henc hread hsync hroute ⊢
  generalize s.pb.writeRange 0 b = m at henc hread
  refine ⟨m, ?_⟩
  rw [henc, andThen_next]
  exact exec_pktDec_of_route_A
    (s := { s with pb := m, status := 0, freeCtr := s.freeCtr + 12, pbLen := some len })
    hf rfl hlen hread hsync hroute

/-- An int24 field `v` comes back as `w`: the low 24 bits of the quantised value, dequantised. -/
def Int24Image (num : NumRec) (s v w : F32) : Prop :=
  ∀ q, quantOf num v s = some q →
    w = dequantOf num (BitVec.ofInt 32 (signed24 (q.toNat % 2 ^ 24))) s

theorem int24Image_decField {num : NumRec} {b : List Byte} {off : Nat} {free : I32} {v s : F32}
    (h : slice b off 3 = encField num free v s) : Int24Image num s v (decField num b off s) := by
  intro q hq
  rw [decField_of_slice num h, encInt, hq, Option.getD_some]

/-- The record `d` is what the record `a` comes back as from the wire (R137). -/
structure WireImage (num : NumRec) (a d : StructureA) : Prop where
  navigationStatus : d.navigationStatus = a.navigationStatus
  time : d.time = BitVec.ofNat 16 (a.time.toNat % 60000)
  latitude : d.latitude = a.latitude
  longitude : d.longitude = a.longitude
  altitude : d.altitude = a.altitude
  accelerationX : Int24Image num sAcc a.accelerationX d.accelerationX
  accelerationY : Int24Image num sAcc a.accelerationY d.accelerationY
  accelerationZ : Int24Image num sAcc a.accelerationZ d.accelerationZ
  angularRateX : Int24Image num sAng a.angularRateX d.angularRateX
  angularRateY : Int24Image num sAng a.angularRateY d.angularRateY
  angularRateZ : Int24Image num sAng a.angularRateZ d.angularRateZ
  velocityNorth : Int24Image num sVel a.velocityNorth d.velocityNorth
  velocityEast : Int24Image num sVel a.velocityEast d.velocityEast
  velocityDown : Int24Image num sVel a.velocityDown d.velocityDown
  heading : Int24Image num sOri a.heading d.heading
  pitch : Int24Image num sOri a.pitch d.pitch
  roll : Int24Image num sOri a.roll d.roll
  statusChannel : d.statusChannel = a.statusChannel
  checksum1Valid : d.checksum1Valid = true
  checksum2Valid : d.checksum2Valid = true
  checksum3Valid : d.checksum3Valid = true

section
variable (num : NumRec) (free : Nat → I32) (a : StructureA)

theorem channelOf_pktEncode :
    channelOf (byteAt (pktEncode num free (.structureA a)) 62)
      (slice (pktEncode num free (.structureA a)) 63 8) = a.statusChannel := by
  rw [byteAt_pktEncode_tag, slice_pktEncode_payload]
  exact payloadRoundTrip.1 a.statusChannel

theorem chk1Ok_pktEncode : chk1Ok (pktEncode num free (.structureA a)) = true := by
  rw [chk1Ok_eq_decide, byteAt_pktEncode_checksum1, decide_eq_true rfl]

theorem chk2Ok_pktEncode : chk2Ok (pktEncode num free (.structureA a)) = true := by
  rw [chk2Ok_eq_decide, byteAt_pktEncode_checksum2, decide_eq_true rfl]

theorem chk3Ok_pktEncode (p : Packet) : chk3Ok (pktEncode num free p) = true := by
  rw [chk3Ok_eq_decide, byteAt_pktEncode_checksum3, decide_eq_true rfl]

theorem latitude_decodeA_pktEncode :
    (decodeA num (pktEncode num free (.structureA a))).latitude = a.latitude := by
  rw [decodeA, read64, memRead_pktEncode_latitude, BitVec.ofNat_toNat, BitVec.setWidth_eq]

theorem longitude_decodeA_pktEncode :
    (decodeA num (pktEncode num free (.structureA a))).longitude = a.longitude := by
  rw [decodeA, read64, read64, memRead_pktEncode_longitude, BitVec.ofNat_toNat, BitVec.setWidth_eq]

theorem altitude_decodeA_pktEncode :
    (decodeA num (pktEncode num free (.structureA a))).altitude = a.altitude := by
  rw [decodeA, read32, memRead_pktEncode_altitude, BitVec.ofNat_toNat, BitVec.setWidth_eq]

theorem time_decodeA_pktEncode :
    (decodeA num (pktEncode num free (.structureA a))).time =
      BitVec.ofNat 16 (a.time.toNat % 60000) := by
  rw [decodeA, read16, memRead_pktEncode_time]

/-- Each field of the decode is the one that stands in its slice. -/
theorem wireImage_decodeA_pktEncode :
    WireImage num a (decodeA num (pktEncode num free (.structureA a))) where
  navigationStatus := byteAt_pktEncode_navigationStatus num free a
  time := time_decodeA_pktEncode num free a
  latitude := latitude_decodeA_pktEncode num free a
  longitude := longitude_decodeA_pktEncode num free a
  altitude := altitude_decodeA_pktEncode num free a
  accelerationX := int24Image_decField (slice_pktEncode_accelerationX num free a)
  accelerationY := int24Image_decField (slice_pktEncode_accelerationY num free a)
  accelerationZ := int24Image_decField (slice_pktEncode_accelerationZ num free a)
  angularRateX := int24Image_decField (slice_pktEncode_angularRateX num free a)
  angularRateY := int24Image_decField (slice_pktEncode_angularRateY num free a)
  angularRateZ := int24Image_decField (slice_pktEncode_angularRateZ num free a)
  velocityNorth := int24Image_decField (slice_pktEncode_velocityNorth num free a)
  velocityEast := int24Image_decField (slice_pktEncode_velocityEast num free a)
  velocityDown := int24Image_decField (slice_pktEncode_velocityDown num free a)
  heading := int24Image_decField (slice_pktEncode_heading num free a)
  pitch := int24Image_decField (slice_pktEncode_pitch num free a)
  roll := int24Image_decField (slice_pktEncode_roll num free a)
  statusChannel := (statusChannel_decodeA num _).trans (channelOf_pktEncode num free a)
  checksum1Valid := chk1Ok_pktEncode num free a
  checksum2Valid := chk2Ok_pktEncode num free a
  checksum3Valid := chk3Ok_pktEncode num free _

end

/-- Settles O37: the encoded bytes read back, their navigation status routes to structure-A, and the
decode of them is the record's image. -/
theorem packetRoundTrip : Obligations.PacketRoundTrip := by
  intro s a len hf hk ha hlen hnav
  obtain ⟨m, ht⟩ := exec_pktEnc_pktDec_of_structureA hf hk ha hlen hnav
  have hd := wireImage_decodeA_pktEncode (numOf s.num) (drawFree s) a
  generalize decodeA (numOf s.num) (pktEncode (numOf s.num) (drawFree s) (.structureA a)) = d at ht hd
  exact ⟨_, ht, hf, rfl, rfl, congrArg some hd.navigationStatus, congrArg some hd.time,
    congrArg some hd.latitude, congrArg some hd.longitude, congrArg some hd.altitude,
    fun q hq => congrArg some (hd.accelerationX q hq),
    fun q hq => congrArg some (hd.accelerationY q hq),
    fun q hq => congrArg some (hd.accelerationZ q hq),
    fun q hq => congrArg some (hd.angularRateX q hq),
    fun q hq => congrArg some (hd.angularRateY q hq),
    fun q hq => congrArg some (hd.angularRateZ q hq),
    fun q hq => congrArg some (hd.velocityNorth q hq),
    fun q hq => congrArg some (hd.velocityEast q hq),
    fun q hq => congrArg some (hd.velocityDown q hq),
    fun q hq => congrArg some (hd.heading q hq), fun q hq => congrArg some (hd.pitch q hq),
    fun q hq => congrArg some (hd.roll q hq), congrArg scOfChannel hd.statusChannel,
    congrArg some hd.checksum1Valid, congrArg some hd.checksum2Valid,
    congrArg some hd.checksum3Valid⟩

end Sys2Proof
end

section
/-! The statements about a structure-A packet with one byte changed (R157) and about the packet of zeros
(R134, corner case 3). -/

open Sys2Proof.Machine

namespace Sys2Proof

/-! Fields that depend on their own bytes alone. -/

section
variable {b : List Byte} {i off : Nat}

theorem memRead_set_other {n : Nat} (h : i < off ∨ off + n ≤ i) (x : Byte) :
    memRead (b.set i x) off n = memRead b off n := by
  rw [memRead, memRead, slice_set_other h]

theorem read16_set_other (h : i < off ∨ off + 2 ≤ i) (x : Byte) :
    read16 (b.set i x) off = read16 b off := by
  rw [read16, read16, memRead_set_other h]

theorem read32_set_other (h : i < off ∨ off + 4 ≤ i) (x : Byte) :
    read32 (b.set i x) off = read32 b off := by
  rw [read32, read32, memRead_set_other h]

theorem read64_set_other (h : i < off ∨ off + 8 ≤ i) (x : Byte) :
    read64 (b.set i x) off = read64 b off := by
  rw [read64, read64, memRead_set_other h]

theorem decField_set_other (num : NumRec) (sc : F32) (h : i < off ∨ off + 2 < i) (x : Byte) :
    decField num (b.set i x) off sc = decField num b off sc := by
  rw [decField, decField, byteAt_set_other (by omega), byteAt_set_other (by omega),
    byteAt_set_other (by omega)]

theorem channelOf_set_other (h : i < 62 ∨ 70 < i) (x : Byte) :
    channelOf (byteAt (b.set i x) 62) (slice (b.set i x) 63 8) =
      channelOf (byteAt b 62) (slice b 63 8) := by
  rw [byteAt_set_other (by omega), slice_set_other (by omega)]

/-- A checksum that holds survives a changed byte exactly where the byte lies above the stored one. -/
theorem checksum_set_iff {x : Byte} {hi : Nat} (hi1 : 1 ≤ i) (hib : i < b.length)
    (hx : b[i]? ≠ some x) (h : csumOf b 1 hi = byteAt b (hi + 1)) :
    csumOf (b.set i x) 1 hi = byteAt (b.set i x) (hi + 1) ↔ hi + 1 < i := by
  rcases lt_trichotomy i (hi + 1) with hlt | rfl | hgt
  · refine iff_of_false (fun hc => ?_) (by omega)
    rw [byteAt_set_other (by omega), ← h] at hc
    exact csumOf_set_ne hi1 (by omega) hib hx hc
  · refine iff_of_false (fun hc => ?_) (lt_irrefl _)
    rw [byteAt_set_same hib, csumOf_set_other (by omega), h] at hc
    exact (getElem?_ne_iff_byteAt_ne hib x).1 hx hc
  · refine iff_of_true ?_ hgt
    rw [byteAt_set_other (by omega), csumOf_set_other (by omega), h]

end

/-! The changed packet as an operand. -/

theorem pbOperand_write {s : State} {b : List Byte} (hb : pbOperand s = some b) {i : Nat} (hi : i < 72)
    (x : Byte) : pbOperand { s with pb := s.pb.write i x } = some (b.set i x) := by
  obtain ⟨hlen, hread⟩ := (pbOperand_eq_some s b).1 hb
  refine (pbOperand_eq_some _ _).2 ⟨by rw [List.length_set, hlen], fun k hk => ?_⟩
  rw [List.getElem?_set, ← hread k hk]
  show (s.pb.write i x).read k = _
  rw [read_write]
  by_cases h : k = i
  · simp [h, hlen, hi]
  · rw [if_neg h, if_neg (Ne.symm h)]

/-- What a decode that delivers a structure-A record tells of its packet. -/
theorem structureA_of_exec_pktDec {s t : State} {len : Nat} (hf : s.fault = false)
    (hl : s.pbLen = some len) (h : 72 ≤ len) (hx : exec .pktDec s = .next t) (ht : t.fault = false)
    (hk : t.pk.kind = some .A) :
    ∃ b, pbOperand s = some b ∧ byteAt b 0 = 0xE7 ∧ routeOf s.navPolicy (byteAt b 21) = .A ∧
      t = complete (putPacket (.structureA (decodeA (numOf s.num) b)) s) := by
  cases hb : pbOperand s with
  | none =>
    have hn : ¬ len < pktLen := by simp only [pktLen]; omega
    have hv : exec .pktDec s = execPktDec s := rfl
    simp only [hv, execPktDec, hl, if_neg hn, hb, Option.map_none, runOp_none hf,
      Host.Outcome.next.injEq] at hx
    rw [← hx] at ht
    cases ht
  | some b =>
    rw [exec_pktDec_of_bytes hf hl h hb] at hx
    by_cases h0 : byteAt b 0 = 0xE7
    · rw [pktDecode_routed _ _ h h0] at hx
      cases hr : routeOf s.navPolicy (byteAt b 21) with
      | A => rw [hr] at hx; exact ⟨b, rfl, h0, hr, (Host.Outcome.next.inj hx).symm⟩
      | B => rw [hr] at hx; cases hx; cases hk
      | reject => rw [hr] at hx; cases hx; cases hk
    · rw [pktDecode_notSync _ _ h h0] at hx
      cases hx
      cases hk

/-- Settles O38: the changed packet still routes to structure-A; each flag compares a range and a stored
byte, and each other field reads its own bytes. -/
theorem checksumSensitivity : Obligations.ChecksumSensitivity := by
  intro s t len i old x hf hl hlen hx ht hk hc1 hc2 hc3 hi1 hi71 hold hne hnav
  obtain ⟨b, hb, h0, hr, rfl⟩ := structureA_of_exec_pktDec hf hl hlen hx ht hk
  obtain ⟨hblen, hread⟩ := (pbOperand_eq_some s b).1 hb
  have hib : i < b.length := by omega
  have hxb : b[i]? ≠ some x := by
    rw [← hread i (by omega), hold]
    exact fun h => hne (Option.some.inj h).symm
  have h0' : byteAt (b.set i x) 0 = 0xE7 := by rwa [byteAt_set_other (by omega)]
  have hr' : routeOf s.navPolicy (byteAt (b.set i x) 21) = .A := by
    by_cases h : i = 21
    · subst h
      rw [byteAt_set_same hib]
      exact routeOf_allowed s.navPolicy (hnav rfl)
    · rwa [byteAt_set_other h]
  have hflag : ∀ hi, csumOf b 1 hi = byteAt b (hi + 1) →
      decide (csumOf (b.set i x) 1 hi = byteAt (b.set i x) (hi + 1)) = decide (hi + 1 < i) :=
    fun _ hc => decide_eq_decide.2 (checksum_set_iff hi1 hib hxb hc)
  have hc1' : chk1Ok b = true := Option.some.inj hc1
  have hc2' : chk2Ok b = true := Option.some.inj hc2
  have hc3' : chk3Ok b = true := Option.some.inj hc3
  rw [chk1Ok_eq_decide, decide_eq_true_iff] at hc1'
  rw [chk2Ok_eq_decide, decide_eq_true_iff] at hc2'
  rw [chk3Ok_eq_decide, decide_eq_true_iff] at hc3'
  have hflag3 := hflag 70 hc3'
  rw [decide_eq_false (by omega : ¬ 70 + 1 < i)] at hflag3
  refine ⟨_, exec_pktDec_of_route_A (by exact hf) (by exact hl) hlen (pbOperand_write hb (by omega) x)
    h0' hr', hf, rfl, rfl, congrArg some (hflag 21 hc1'),
    congrArg some (hflag 60 hc2'), congrArg some hflag3, ?nav,
    fun h => congrArg some (read16_set_other (by omega) x),
    fun h => congrArg some (decField_set_other _ _ (by omega) x),
    fun h => congrArg some (decField_set_other _ _ (by omega) x),
    fun h => congrArg some (decField_set_other _ _ (by omega) x),
    fun h => congrArg some (decField_set_other _ _ (by omega) x),
    fun h => congrArg some (decField_set_other _ _ (by omega) x),
    fun h => congrArg some (decField_set_other _ _ (by omega) x),
    fun h => congrArg some (read64_set_other (by omega) x),
    fun h => congrArg some (read64_set_other (by omega) x),
    fun h => congrArg some (read32_set_other (by omega) x),
    fun h => congrArg some (decField_set_other _ _ (by omega) x),
    fun h => congrArg some (decField_set_other _ _ (by omega) x),
    fun h => congrArg some (decField_set_other _ _ (by omega) x),
    fun h => congrArg some (decField_set_other _ _ (by omega) x),
    fun h => congrArg some (decField_set_other _ _ (by omega) x),
    fun h => congrArg some (decField_set_other _ _ (by omega) x),
    fun h => congrArg scOfChannel (channelOf_set_other h x)⟩
  case nav =>
    show some (byteAt (b.set i x) 21) = if i = 21 then some x else some (byteAt b 21)
    split
    next h => subst h; rw [byteAt_set_same hib]
    next h => rw [byteAt_set_other h]

/-! The packet of zeros. -/

/-- The sync byte and seventy-one zeros. -/
def zeroPacket : List Byte := 0xE7 :: List.replicate 71 0

theorem pbOperand_eq_zeroPacket {s : State} (h0 : s.pb.read 0 = some 0xE7)
    (h : ∀ a, 1 ≤ a → a < 72 → s.pb.read a = some 0) : pbOperand s = some zeroPacket := by
  refine (pbOperand_eq_some s zeroPacket).2 ⟨rfl, fun k hk => ?_⟩
  cases k with
  | zero => exact h0
  | succ k =>
    rw [h (k + 1) (by omega) hk, zeroPacket, List.getElem?_cons_succ, List.getElem?_replicate,
      if_pos (by omega)]

theorem byteAt_zeroPacket {off : Nat} (h : 1 ≤ off) : byteAt zeroPacket off = 0 := by
  obtain ⟨k, rfl⟩ : ∃ k, off = k + 1 := ⟨off - 1, by omega⟩
  rw [byteAt_eq, zeroPacket, List.getElem?_cons_succ, List.getElem?_replicate]
  split <;> rfl

theorem unpack24_zero : unpack24 0 0 0 = 0 := by decide

/-- P3 of R119 at a finite positive scale. -/
theorem decField_zeroPacket {num : NumRec} (hnum : num.Admissible) {sc : F32}
    (hfin : f32IsFinite sc = true) (hpos : 0 < f32Val sc) {off : Nat} (h : 1 ≤ off) :
    decField num zeroPacket off sc = 0 := by
  obtain ⟨-, -, hzero⟩ := hnum.zero_scale sc hfin hpos
  rw [decField, byteAt_zeroPacket h, byteAt_zeroPacket (by omega), byteAt_zeroPacket (by omega),
    unpack24_zero, dequantOf, hzero]

theorem f32Val_pos {x : F32} (hneg : f32Neg x = false) (hmag : 0 < f32Mag x) : 0 < f32Val x := by
  have hq : (0 : ℚ) < f32Mag x := Nat.cast_pos.2 hmag
  rw [f32Val_eq, hneg, if_neg Bool.false_ne_true, one_mul]
  positivity

theorem sAcc_pos : f32IsFinite sAcc = true ∧ 0 < f32Val sAcc :=
  ⟨by decide, f32Val_pos (by decide) (by decide)⟩

theorem sAng_pos : f32IsFinite sAng = true ∧ 0 < f32Val sAng :=
  ⟨by decide, f32Val_pos (by decide) (by decide)⟩

theorem sOri_pos : f32IsFinite sOri = true ∧ 0 < f32Val sOri :=
  ⟨by decide, f32Val_pos (by decide) (by decide)⟩

/-- The record of the packet of zeros. -/
def zeroRecord : StructureA where
  navigationStatus := 0
  time := 0
  accelerationX := 0
  accelerationY := 0
  accelerationZ := 0
  angularRateX := 0
  angularRateY := 0
  angularRateZ := 0
  checksum1Valid := true
  latitude := 0
  longitude := 0
  altitude := 0
  velocityNorth := 0
  velocityEast := 0
  velocityDown := 0
  heading := 0
  pitch := 0
  roll := 0
  checksum2Valid := true
  statusChannel := some (.sc0 ⟨0, 0, 0, 0, 0⟩)
  checksum3Valid := true

theorem channelOf_zeroPacket :
    channelOf (byteAt zeroPacket 62) (slice zeroPacket 63 8) = some (.sc0 ⟨0, 0, 0, 0, 0⟩) := by
  decide

theorem decodeA_zeroPacket {num : NumRec} (hnum : num.Admissible) :
    decodeA num zeroPacket = zeroRecord := by
  have hacc : ∀ off, 1 ≤ off → decField num zeroPacket off sAcc = 0 :=
    fun _ => decField_zeroPacket hnum sAcc_pos.1 sAcc_pos.2
  have hang : ∀ off, 1 ≤ off → decField num zeroPacket off sAng = 0 :=
    fun _ => decField_zeroPacket hnum sAng_pos.1 sAng_pos.2
  have hvel : ∀ off, 1 ≤ off → decField num zeroPacket off sVel = 0 := hacc
  have hori : ∀ off, 1 ≤ off → decField num zeroPacket off sOri = 0 :=
    fun _ => decField_zeroPacket hnum sOri_pos.1 sOri_pos.2
  have h16 : read16 zeroPacket 1 = 0 := by decide
  have h64a : read64 zeroPacket 23 = 0 := by decide
  have h64b : read64 zeroPacket 31 = 0 := by decide
  have h32 : read32 zeroPacket 39 = 0 := by decide
  have h1 : chk1Ok zeroPacket = true := by decide
  have h2 : chk2Ok zeroPacket = true := by decide
  have h3 : chk3Ok zeroPacket = true := by decide
  have hc : channelOf (byteAt zeroPacket offTag) (slice zeroPacket offPay payLen) = _ :=
    channelOf_zeroPacket
  rw [decodeA, hacc 3 (by omega), hacc 6 (by omega), hacc 9 (by omega), hang 12 (by omega),
    hang 15 (by omega), hang 18 (by omega), hvel 43 (by omega), hvel 46 (by omega),
    hvel 49 (by omega), hori 52 (by omega), hori 55 (by omega), hori 58 (by omega), h16, h64a, h64b, h32,
    h1, h2, h3, hc, byteAt_zeroPacket (by decide), zeroRecord]

/-- Settles O39: the packet of zeros routes to structure-A, and P3 gives its int24 fields. -/
theorem zeroedPacketDecodesToZero : Obligations.ZeroedPacketDecodesToZero := by
  intro s len hnum hf hl hlen h0 h
  have hroute : routeOf s.navPolicy (byteAt zeroPacket 21) = .A := by
    rw [byteAt_zeroPacket (by omega)]
    exact routeOf_allowed s.navPolicy (by decide)
  rw [exec_pktDec_of_route_A hf hl hlen (pbOperand_eq_zeroPacket h0 h) rfl hroute,
    decodeA_zeroPacket hnum]
  rfl

end Sys2Proof
end

section
/-! The statements about the field codecs: what `ENC24` leaves, and the codecs as compositions of their
halves. -/

open Sys2Proof.Machine

namespace Sys2Proof

/-- The integer of an encode is the quantised one wherever R113's formula gives an integer. -/
theorem encInt_of_finite {num : NumRec} (free : I32) {v sc : F32} (hv : f32IsFinite v = true)
    (hs : f32IsFinite sc = true) (h0 : f32Val sc ≠ 0) {q : I32} (hq : num.rint (num.div v sc) = some q) :
    encInt num free v sc = q := by
  rw [encInt, quantOf_of_finite num hv hs h0, hq, Option.getD_some]

section
variable {s : State}

/-- R113. -/
theorem exec_quant_of_operands (hf : s.fault = false) {v sc : F32} (hv : s.fx.v = some v)
    (hs : s.fx.s = some sc) :
    exec .quant s =
      .next (advanceFree 1 (putFxInt (encInt (numOf s.num) (drawFree s 0) v sc) s)) := by
  have hx : exec .quant s = execQuant s := rfl
  simp only [hx, execQuant, hv, hs, runOp_some hf]

/-- R115. -/
theorem exec_dequant_of_operands (hf : s.fault = false) {n : I32} {sc : F32} (hn : s.fx.n = some n)
    (hs : s.fx.s = some sc) :
    exec .dequant s = .next (putFxValue (dequantOf (numOf s.num) n sc) s) := by
  have hx : exec .dequant s = execDequant s := rfl
  simp only [hx, execDequant, hn, hs, runOp_some hf]

theorem exec_enc24_eq_quant_pack (hf : s.fault = false) {v sc : F32} (hv : s.fx.v = some v)
    (hs : s.fx.s = some sc) : exec .enc24 s = andThen (exec .quant s) (exec .i24Pack) := by
  rw [exec_enc24_of_operands hf hv hs rfl, exec_quant_of_operands hf hv hs, andThen_next,
    exec_i24Pack_of_some (by exact hf) rfl]
  rfl

theorem exec_dec24_eq_unpack_dequant (hf : s.fault = false) {b0 b1 b2 : Byte} {sc : F32}
    (hb : fxBytes s.fx = some (b0, b1, b2)) (hs : s.fx.s = some sc) :
    exec .dec24 s = andThen (exec .i24Unpack s) (exec .dequant) := by
  rw [exec_dec24_of_operands hf hb hs, exec_i24Unpack_of_bytes hf hb, andThen_next,
    exec_dequant_of_operands (by exact hf) rfl (by exact hs)]
  rfl

end

/-- Settles O19: the bytes are the low 24 bits of the integer, which is the quantised one or free. -/
theorem encodeFieldResult : Obligations.EncodeFieldResult :=
  fun _ _ _ hf hv hs => ⟨_, _, _, _, exec_enc24_of_operands hf hv hs rfl, packByte_number _,
    fun hvf hsf h0 _ hq => encInt_of_finite _ hvf hsf h0 hq⟩

/-- Settles O21: each half on its own, and the two compositions of the halves. -/
theorem fieldCodecsAreCompositions : Obligations.FieldCodecsAreCompositions := by
  refine ⟨fun s v sc hf hv hs => ⟨_, exec_quant_of_operands hf hv hs,
      fun hvf hsf h0 q hq => encInt_of_finite _ hvf hsf h0 hq⟩,
    fun s n sc hf hn hs => exec_dequant_of_operands hf hn hs,
    fun s hf hv hs => ?encode, fun s hf hb hs => ?decode⟩
  case encode =>
    obtain ⟨v, hv⟩ := Option.isSome_iff_exists.1 hv
    obtain ⟨sc, hs⟩ := Option.isSome_iff_exists.1 hs
    exact exec_enc24_eq_quant_pack hf hv hs
  case decode =>
    obtain ⟨⟨b0, b1, b2⟩, hb⟩ := Option.isSome_iff_exists.1 hb
    obtain ⟨sc, hs⟩ := Option.isSome_iff_exists.1 hs
    exact exec_dec24_eq_unpack_dequant hf hb hs

end Sys2Proof
end

section
/-! The statements about `SC.LOOKUP`, `SC.DEC` and the channels without a variant. -/

open Sys2Proof.Machine

namespace Sys2Proof

/-! The registry, in the words of the statements (R171). -/

theorem registry_of_registered {tag : Byte} (h : tag.toNat ≤ 9) :
    registry tag = some (tag.setWidth 4) := by
  have hlt : tag.toNat < numVariants := Nat.lt_succ_of_le h
  rw [registry, if_pos hlt, BitVec.ofNat_toNat]

theorem registry_of_unregistered {tag : Byte} (h : 10 ≤ tag.toNat) : registry tag = none :=
  if_neg (Nat.not_lt.2 h)

/-- A registered tag is the tag of the variant that its payload gives. -/
theorem tag_of_channelOf {tag : Byte} {p : List Byte} {v : Variant} (h : channelOf tag p = some v) :
    v.tag = tag.setWidth 4 := by
  rcases registered_tag_cases (registered_of_channelOf h) with
    rfl | rfl | rfl | rfl | rfl | rfl | rfl | rfl | rfl | rfl
  all_goals
    obtain rfl := Option.some.inj h
    rfl

/-- No variant has a tag in 10..15. -/
theorem variantOperand_of_unregistered (r : ScRegs) {t : BitVec 4} (h : 10 ≤ t.toNat) :
    variantOperand r t = none := by
  unfold variantOperand
  split
  case h_11 => rfl
  all_goals omega

theorem channelOperand_of_unregistered {r : ScRegs} {t : BitVec 4} (hp : r.present = some true)
    (ht : r.tag = some t) (h : 10 ≤ t.toNat) : channelOperand r = none := by
  simp only [channelOperand, hp, ht, variantOperand_of_unregistered r h, Option.map_none]

section
variable {s : State}

theorem runOp_map_none {α : Type} (hf : s.fault = false) {o : Option α} (ho : o = none)
    (g : α → State) : runOp s (o.map g) = .next s.violated := by
  rw [ho, Option.map_none, runOp_none hf, raise_preconditionViolation_eq]

theorem exec_scEnc_of_no_channel (hf : s.fault = false) (h : channelOperand s.sc = none) :
    exec .scEnc s = .next s.violated := runOp_map_none hf h _

/-- The status channel is an operand of a structure-A encode. -/
theorem structureAOperand_of_no_channel (r : PkRegs) {sc : ScRegs} (h : channelOperand sc = none) :
    structureAOperand r sc = none := by
  refine Option.eq_none_iff_forall_ne_some.2 fun a ha => ?_
  obtain ⟨-, -, -, -, -, -, -, -, -, -, -, -, -, -, -, -, -, hc, -⟩ :=
    (structureAOperand_eq_some r sc a).1 ha
  rw [h] at hc
  cases hc

theorem exec_pktEnc_of_no_packet (hf : s.fault = false) (h : packetOperand s.pk s.sc = none) :
    exec .pktEnc s = .next s.violated := runOp_map_none hf h _

theorem packetOperand_of_no_structureA {r : PkRegs} {sc : ScRegs} (hk : r.kind = some .A)
    (h : structureAOperand r sc = none) : packetOperand r sc = none := by
  simp only [packetOperand, hk, h, Option.map_none]

/-! `SC.LOOKUP` and `SC.DEC` (R170, R173, R195). -/

theorem exec_scLookup_of_registered (hf : s.fault = false) {tag : Byte} (ht : s.scTagByte = some tag)
    (h : tag.toNat ≤ 9) :
    exec .scLookup s =
      .next (complete { s with sc := { s.sc with present := some true, tag := some (tag.setWidth 4) } }) := by
  have hx : exec .scLookup s = execScLookup s := rfl
  rw [hx, execScLookup, ht, Option.map_some, registry_of_registered h, runOp_some hf]

theorem exec_scLookup_of_unregistered (hf : s.fault = false) {tag : Byte} (ht : s.scTagByte = some tag)
    (h : 10 ≤ tag.toNat) :
    exec .scLookup s = .next (complete { s with sc := { s.sc with present := some false } }) := by
  have hx : exec .scLookup s = execScLookup s := rfl
  rw [hx, execScLookup, ht, Option.map_some, registry_of_unregistered h, runOp_some hf]

theorem exec_scDec_of_unregistered (hf : s.fault = false) {tag : Byte} (ht : s.scTagByte = some tag)
    (h : 10 ≤ tag.toNat) :
    exec .scDec s = .next (complete { s with sc := scOfChannel none }) := by
  have hx : exec .scDec s = execScDec s := rfl
  simp only [hx, execScDec, ht, registry_of_unregistered h, runOp_some hf]

theorem exec_scDec_of_registered (hf : s.fault = false) {tag : Byte} (ht : s.scTagByte = some tag)
    (h : tag.toNat ≤ 9) {p : List Byte} (hp : spOperand s = some p) :
    exec .scDec s = .next (complete { s with sc := scOfChannel (channelOf tag p) }) := by
  have hx : exec .scDec s = execScDec s := rfl
  simp only [hx, execScDec, ht, registry_of_registered h, hp, Option.map_some, runOp_some hf]

/-- The lookup writes the two registers that the row of the tag leaves alone. -/
theorem exec_scDec_eq_lookup_row (hf : s.fault = false) {tag : Byte} (ht : s.scTagByte = some tag)
    {p : List Byte} (hp : spOperand s = some p) {v : Variant} (hv : channelOf tag p = some v) :
    exec .scDec s = andThen (exec .scLookup s) (exec (decodeTag tag)) := by
  have h := registered_of_channelOf hv
  rw [exec_scDec_of_registered hf ht h hp, exec_scLookup_of_registered hf ht h, andThen_next,
    exec_decodeTag_of_channelOf (by exact hf) (by exact hp) hv, hv, ← tag_of_channelOf hv]
  rfl

end

/-- Settles O40: the lookup of a registered and of any other tag. -/
theorem lookupFindsRegisteredTags : Obligations.LookupFindsRegisteredTags := by
  intro s tag hf ht
  split
  next h => exact exec_scLookup_of_registered hf ht h
  next h => exact exec_scLookup_of_unregistered hf ht (by omega)

/-- Settles O49: an unknown tag leaves `None`; a registered one is the lookup and the row of the tag. -/
theorem decodeChannelResult : Obligations.DecodeChannelResult := by
  refine fun s tag hf ht => ⟨fun h => exec_scDec_of_unregistered hf ht h, fun p i h hp hi => ?_⟩
  obtain rfl : decodeTag tag = i := Except.ok.inj hi
  have hlen : p.length = 8 := ((spOperand_eq_some s p).1 hp).1
  obtain ⟨v, hv, -⟩ := encode_channelOf h hlen
  exact ⟨exec_scDec_eq_lookup_row hf ht hp hv, exec_scDec_of_registered hf ht h hp,
    Option.isSome_iff_exists.2 ⟨v, hv⟩⟩

/-- Settles O48: such a tag names no channel, which is an operand of both encodes. -/
theorem tagWithoutVariantViolates : Obligations.TagWithoutVariantViolates := by
  intro s t hf hp ht h
  have hc := channelOperand_of_unregistered hp ht h
  exact ⟨exec_scEnc_of_no_channel hf hc, fun hk => exec_pktEnc_of_no_packet hf
    (packetOperand_of_no_structureA hk (structureAOperand_of_no_channel s.pk hc))⟩

/-- Settles O50: neither row has an operand. -/
theorem noChannelRows : Obligations.NoChannelRows :=
  fun s _ hf => ⟨runOp_some hf _, _, runOp_some hf _, storedAt_writeRange s.sp 0 _⟩

end Sys2Proof
end

section
/-! The statements about operands over all commands: those that hold no value (R237 (d)), and that nothing
else reaches the results of a decode or a scan (R15, R39). -/

open Sys2Proof.Machine

namespace Sys2Proof

/-! Operands that hold no value. -/

theorem fxBytes_eq_none {r : FxRegs} (h : r.b0 = none ∨ r.b1 = none ∨ r.b2 = none) :
    fxBytes r = none := by
  refine Option.eq_none_iff_forall_ne_some.2 fun x hx => ?_
  simp only [fxBytes] at hx
  split at hx
  next h0 h1 h2 => simp only [h0, h1, h2, reduceCtorEq, or_self] at h
  next => cases hx

theorem packetOperand_of_no_envelope {r : PkRegs} (sc : ScRegs)
    (h : r.kind = none ∨ r.navigationStatus = none) : packetOperand r sc = none := by
  refine Option.eq_none_iff_forall_ne_some.2 fun p hp => ?_
  simp only [packetOperand] at hp
  split at hp
  next hk =>
    obtain ⟨a, ha, -⟩ := Option.map_eq_some_iff.1 hp
    obtain ⟨hn, -⟩ := (structureAOperand_eq_some r sc a).1 ha
    simp only [hk, hn, reduceCtorEq, or_self] at h
  next hk =>
    have hn : r.navigationStatus = none := h.resolve_left (by simp [hk])
    simp only [structureBOperand, hn] at hp
    cases hp
  next => cases hp

/-- Every field but the checksum flags is an operand of a structure-A encode (R132, R150). -/
theorem structureAOperand_eq_none {r : PkRegs} {sc : ScRegs}
    (h : r.time = none ∨ r.accelerationX = none ∨ r.accelerationY = none ∨ r.accelerationZ = none ∨
      r.angularRateX = none ∨ r.angularRateY = none ∨ r.angularRateZ = none ∨ r.latitude = none ∨
      r.longitude = none ∨ r.altitude = none ∨ r.velocityNorth = none ∨ r.velocityEast = none ∨
      r.velocityDown = none ∨ r.heading = none ∨ r.pitch = none ∨ r.roll = none ∨
      channelOperand sc = none) : structureAOperand r sc = none := by
  refine Option.eq_none_iff_forall_ne_some.2 fun a ha => ?_
  obtain ⟨-, h1, h2, h3, h4, h5, h6, h7, h8, h9, h10, h11, h12, h13, h14, h15, h16, h17, -⟩ :=
    (structureAOperand_eq_some r sc a).1 ha
  simp only [h1, h2, h3, h4, h5, h6, h7, h8, h9, h10, h11, h12, h13, h14, h15, h16, h17, reduceCtorEq,
    or_self] at h

theorem channelOperand_eq_none {r : ScRegs}
    (h : r.present = none ∨ (r.present = some true ∧ r.tag = none)) : channelOperand r = none := by
  rcases h with h | ⟨hp, ht⟩
  · simp only [channelOperand, h]
  · simp only [channelOperand, hp, ht]

/-! The commands whose operands are not one reading. -/

section
variable {s : State}

theorem exec_enc24_of_no_operand (hf : s.fault = false) (h : s.fx.v = none ∨ s.fx.s = none) :
    exec .enc24 s = .next s.violated := by
  have hx : exec .enc24 s = execEnc24 s := rfl
  rw [hx, execEnc24, ← raise_preconditionViolation_eq, ← runOp_none hf]
  split
  next hv hs => simp only [hv, hs, reduceCtorEq, or_self] at h
  next => rfl

theorem exec_dec24_of_no_operand (hf : s.fault = false) (h : fxBytes s.fx = none ∨ s.fx.s = none) :
    exec .dec24 s = .next s.violated := by
  have hx : exec .dec24 s = execDec24 s := rfl
  rw [hx, execDec24, ← raise_preconditionViolation_eq, ← runOp_none hf]
  split
  next hb hs => simp only [hb, hs, reduceCtorEq, or_self] at h
  next => rfl

theorem exec_pktDec_of_no_length (hf : s.fault = false) (h : s.pbLen = none) :
    exec .pktDec s = .next s.violated := by
  have hx : exec .pktDec s = execPktDec s := rfl
  simp only [hx, execPktDec, h, runOp_none hf, raise_preconditionViolation_eq]

theorem exec_pktDec_of_no_bytes (hf : s.fault = false) {len : Nat} (hl : s.pbLen = some len)
    (h : 72 ≤ len) (hb : pbOperand s = none) : exec .pktDec s = .next s.violated := by
  have hx : exec .pktDec s = execPktDec s := rfl
  have hn : ¬ len < pktLen := Nat.not_lt.2 h
  simp only [hx, execPktDec, hl, if_neg hn, hb, Option.map_none, runOp_none hf,
    raise_preconditionViolation_eq]

theorem exec_scDec_of_no_tag (hf : s.fault = false) (h : s.scTagByte = none) :
    exec .scDec s = .next s.violated := by
  have hx : exec .scDec s = execScDec s := rfl
  simp only [hx, execScDec, h, runOp_none hf, raise_preconditionViolation_eq]

theorem exec_scDec_of_no_payload (hf : s.fault = false) {tag : Byte} (ht : s.scTagByte = some tag)
    (h : tag.toNat ≤ 9) (hp : spOperand s = none) : exec .scDec s = .next s.violated := by
  have hx : exec .scDec s = execScDec s := rfl
  simp only [hx, execScDec, ht, registry_of_registered h, hp, Option.map_none, runOp_none hf,
    raise_preconditionViolation_eq]

theorem exec_scan_of_no_bytes (hf : s.fault = false) (hb : sbOperand s = none) :
    exec .scan s = .next s.violated := by
  have hx : exec .scan s = execScan s := rfl
  rw [hx, execScan, hb, Option.map_none, ← raise_preconditionViolation_eq, ← runOp_none hf]
  cases s.sbLen with
  | none => rfl
  | some len => simp only [ite_self]

end

/-- Settles O14: each command reads an operand that has no value, so the gate finds a violation. -/
theorem valuelessOperandsViolate : Obligations.ValuelessOperandsViolate := by
  refine fun s hf => ⟨exec_enc24_of_no_operand hf, fun h => ?dec24, fun h => runOp_map_none hf h _,
    fun h => runOp_map_none hf (fxBytes_eq_none h) _,
    fun h => exec_pktEnc_of_no_packet hf (packetOperand_of_no_envelope s.sc h),
    fun hk h => exec_pktEnc_of_no_packet hf
      (packetOperand_of_no_structureA hk (structureAOperand_eq_none h)),
    fun h => ?pktDec, exec_scEnc_of_no_channel hf, channelOperand_eq_none,
    fun h => ⟨exec_scDec_of_no_tag hf h, runOp_map_none hf h _⟩,
    fun tag a ht hle ha hread =>
      exec_scDec_of_no_payload hf ht hle ((spOperand_eq_none s).2 ⟨a, ha, hread⟩),
    fun h => exec_scan_of_no_bytes hf ((sbOperand_eq_none s).2 h)⟩
  case dec24 =>
    refine exec_dec24_of_no_operand hf ?_
    rcases h with h | h | h | h
    · exact .inl (fxBytes_eq_none (.inl h))
    · exact .inl (fxBytes_eq_none (.inr (.inl h)))
    · exact .inl (fxBytes_eq_none (.inr (.inr h)))
    · exact .inr h
  case pktDec =>
    rcases h with h | ⟨len, hl, hle, a, ha, hread⟩
    · exact exec_pktDec_of_no_length hf h
    · exact exec_pktDec_of_no_bytes hf hl hle ((pbOperand_eq_none s).2 ⟨a, ha, hread⟩)

/-! No history: two runs of one operation from states that share its operands. -/

/-- Two states agree on `STATUS`, on `FAULT` and, while that is clear, on the results `Q` compares. -/
def Agree (Q : State → State → Prop) (t u : State) : Prop :=
  t.status = u.status ∧ t.fault = u.fault ∧ (t.fault = false → Q t u)

section
variable {Q : State → State → Prop} {r s t u : State}

/-- The gate keeps an agreement of the two effects: held back and a violation leave no results. -/
theorem agree_of_runOp {x y : Option State} (hf : r.fault = s.fault) (hx : runOp r x = .next t)
    (hy : runOp s y = .next u) (h : Option.Rel (Agree Q) x y) : Agree Q t u := by
  cases hs : s.fault with
  | true =>
    rw [runOp_of_fault (hf.trans hs)] at hx
    rw [runOp_of_fault hs] at hy
    cases hx
    cases hy
    exact ⟨rfl, hf, fun hc => by rw [endFaulted_fault, hf, hs] at hc; cases hc⟩
  | false =>
    cases h with
    | some h =>
      rw [runOp_some (hf.trans hs)] at hx
      rw [runOp_some hs] at hy
      cases hx
      cases hy
      exact h
    | none =>
      rw [runOp_none (hf.trans hs)] at hx
      rw [runOp_none hs] at hy
      cases hx
      cases hy
      exact ⟨rfl, rfl, fun hc => by cases hc⟩

theorem rel_map {α : Type} (o : Option α) {f g : α → State} (h : ∀ a, Agree Q (f a) (g a)) :
    Option.Rel (Agree Q) (o.map f) (o.map g) := by
  cases o with
  | none => exact .none
  | some a => exact .some (h a)

end

section
variable {r s t u : State}

theorem agree_putPacket (p : Packet) (hf : r.fault = s.fault) :
    Agree (fun t u => t.pk = u.pk ∧ t.sc = u.sc) (complete (putPacket p r))
      (complete (putPacket p s)) := by
  cases p <;> exact ⟨rfl, hf, fun _ => ⟨rfl, rfl⟩⟩

/-- A structural error and `ERR_NAV` leave the record registers empty. -/
theorem agree_raise {e : Err} (he : e ≠ .preconditionViolation) (hf : r.fault = s.fault) :
    Agree (fun t u => t.pk = u.pk ∧ t.sc = u.sc) (raise e r) (raise e s) := by
  cases e with
  | preconditionViolation => exact absurd rfl he
  | structuralShort | structuralSync | unrecognizedNav => exact ⟨rfl, hf, fun _ => ⟨rfl, rfl⟩⟩

theorem agree_exec_pktDec (hf : r.fault = s.fault) (hnum : r.num = s.num)
    (hpol : r.navPolicy = s.navPolicy) (hpb : r.pb = s.pb) (hlen : r.pbLen = s.pbLen)
    (hx : exec .pktDec r = .next t) (hy : exec .pktDec s = .next u) :
    Agree (fun t u => t.pk = u.pk ∧ t.sc = u.sc) t u := by
  refine agree_of_runOp hf hx hy ?_
  have hb : pbOperand r = pbOperand s := by rw [pbOperand, pbOperand, hpb]
  rw [hlen, hb, hnum, hpol]
  cases s.pbLen with
  | none => exact .none
  | some len =>
    dsimp only
    split
    next => exact .some (agree_raise (by decide) hf)
    next =>
      refine rel_map _ fun b => ?_
      cases hd : pktDecode (numOf s.num) s.navPolicy len b with
      | ok p => exact agree_putPacket p hf
      | error e => exact agree_raise (pktDecode_error hd) hf

theorem agree_exec_scDec (hf : r.fault = s.fault) (htag : r.scTagByte = s.scTagByte)
    (hsp : r.sp = s.sp) (hx : exec .scDec r = .next t) (hy : exec .scDec s = .next u) :
    Agree (fun t u => t.sc = u.sc) t u := by
  refine agree_of_runOp hf hx hy ?_
  have hp : spOperand r = spOperand s := by rw [spOperand, spOperand, hsp]
  rw [htag, hp]
  cases s.scTagByte with
  | none => exact .none
  | some tag =>
    dsimp only
    cases registry tag with
    | none => exact .some ⟨rfl, hf, fun _ => rfl⟩
    | some _ => exact rel_map _ fun _ => ⟨rfl, hf, fun _ => rfl⟩

theorem agree_exec_scan (hf : r.fault = s.fault) (hnum : r.num = s.num)
    (hpol : r.navPolicy = s.navPolicy) (hsb : r.sb = s.sb) (hlen : r.sbLen = s.sbLen)
    (hmax : r.sbMax = s.sbMax) (hmask : r.chkRejectMask = s.chkRejectMask)
    (hx : exec .scan r = .next t) (hy : exec .scan s = .next u) :
    Agree (fun t u => t.scanPos = u.scanPos ∧ t.outq = u.outq) t u := by
  refine agree_of_runOp hf hx hy ?_
  have hb : sbOperand r = sbOperand s := by rw [sbOperand, sbOperand, hlen, hsb]
  have hlong : ∀ len, tooLong r len = tooLong s len := fun len => by rw [tooLong, tooLong, hmax]
  rw [hlen, hb, hnum, hpol, hmask]
  cases s.sbLen with
  | none => exact .none
  | some len =>
    simp only [hlong]
    split
    next => exact .none
    next => exact rel_map _ fun _ => ⟨rfl, hf, fun _ => ⟨rfl, rfl⟩⟩

end

/-- Settles O15: each of the three effects is a function of the operands the two states share. -/
theorem noHistoryReachesTheResults : Obligations.NoHistoryReachesTheResults :=
  fun _ _ _ _ hf hnum hpol => ⟨fun hpb hlen => agree_exec_pktDec hf hnum hpol hpb hlen,
    fun htag hsp => agree_exec_scDec hf htag hsp,
    fun hsb hlen hmax hmask => agree_exec_scan hf hnum hpol hsb hlen hmax hmask⟩

end Sys2Proof
end

section
/-! The statements about the scanner's steps and its scan: the run of a scan as a path, which `scanLoop`
follows, and what the path finds in the streams of R216 and R217. -/

open Sys2Proof.Machine

namespace Sys2Proof

/-! The sync test (R70, R211). -/

/-- Settles O54: both tests are a reading of one byte and a comparison. -/
theorem syncTestResult : Obligations.SyncTestResult := by
  refine ⟨fun s b hf hb => ?envelope, fun s sb hf hb => ?candidate⟩
  case envelope =>
    refine (runOp_map_some hf hb _).trans (congrArg Host.Outcome.next ?_)
    exact if_congr Iff.rfl rfl rfl
  case candidate => exact runOp_map_some hf hb _

/-! The five outcomes of a step (R213). -/

section
variable {num : NumRec} {policy : BitVec 2} {mask : BitVec 3} {sb : List Byte} {pos : Nat}

theorem scanStepOf_atEnd (q : List Packet) (h : sb.length ≤ pos) :
    scanStepOf num policy mask sb pos q = (.stopEnd, pos, q) := if_pos h

theorem scanStepOf_skip (q : List Packet) (h : pos < sb.length) (hb : byteAt sb pos ≠ 0xE7) :
    scanStepOf num policy mask sb pos q = (.skip, pos + 1, q) := by
  have hb' : byteAt sb pos ≠ syncByte := hb
  rw [scanStepOf, if_neg (Nat.not_le.2 h), if_pos hb']

theorem scanStepOf_short (q : List Packet) (h : pos < sb.length) (hb : byteAt sb pos = 0xE7)
    (hl : sb.length - pos < 72) :
    scanStepOf num policy mask sb pos q = (.stopShort, pos, q) := by
  have hb' : ¬ byteAt sb pos ≠ syncByte := not_not.2 hb
  have hl' : sb.length - pos < pktLen := hl
  rw [scanStepOf, if_neg (Nat.not_le.2 h), if_neg hb', if_pos hl']

theorem scanStepOf_candidate (q : List Packet) (hb : byteAt sb pos = 0xE7)
    (hl : 72 ≤ sb.length - pos) :
    scanStepOf num policy mask sb pos q = match accepts num policy mask (slice sb pos 72) with
      | some p => (.accept, pos + 72, q ++ [p])
      | none => (.reject, pos + 1, q) := by
  have hb' : ¬ byteAt sb pos ≠ syncByte := not_not.2 hb
  have hl' : ¬ sb.length - pos < pktLen := Nat.not_lt.2 hl
  rw [scanStepOf, if_neg (by omega), if_neg hb', if_neg hl']
  rfl

theorem scanStepOf_accept (q : List Packet) (hb : byteAt sb pos = 0xE7) (hl : 72 ≤ sb.length - pos)
    {p : Packet} (hp : accepts num policy mask (slice sb pos 72) = some p) :
    scanStepOf num policy mask sb pos q = (.accept, pos + 72, q ++ [p]) := by
  rw [scanStepOf_candidate q hb hl, hp]

theorem scanStepOf_reject (q : List Packet) (hb : byteAt sb pos = 0xE7) (hl : 72 ≤ sb.length - pos)
    (hp : accepts num policy mask (slice sb pos 72) = none) :
    scanStepOf num policy mask sb pos q = (.reject, pos + 1, q) := by
  rw [scanStepOf_candidate q hb hl, hp]

end

/-- Settles O53: the branches of `scanStepOf`. -/
theorem scanStepOutcomes : Obligations.ScanStepOutcomes := by
  intro s sb hf hb
  refine (runOp_map_some hf hb _).trans (congrArg Host.Outcome.next ?_)
  by_cases hend : sb.length ≤ s.scanPos
  · rw [scanStepOf_atEnd _ hend, if_pos hend]
    rfl
  rw [if_neg hend]
  by_cases hsync : byteAt sb s.scanPos = 0xE7
  · rw [if_neg (not_not.2 hsync)]
    by_cases hshort : sb.length - s.scanPos < 72
    · rw [scanStepOf_short _ (Nat.not_le.1 hend) hsync hshort, if_pos hshort]
      rfl
    · rw [if_neg hshort]
      cases ha : accepts (numOf s.num) s.navPolicy s.chkRejectMask (slice sb s.scanPos 72) with
      | some p => rw [scanStepOf_accept _ hsync (Nat.not_lt.1 hshort) ha]; rfl
      | none => rw [scanStepOf_reject _ hsync (Nat.not_lt.1 hshort) ha]; rfl
  · rw [scanStepOf_skip _ (Nat.not_le.1 hend) hsync, if_pos hsync]
    rfl

/-! The run of a scan. -/

/-- `ScanFrom` with the end of the run: from a position the scan finds the packets and stops with the
outcome at the last position. -/
inductive ScanPath (num : NumRec) (policy : BitVec 2) (mask : BitVec 3) (sb : List Byte) :
    Nat → List Packet → ScanOutcome → Nat → Prop
  | atEnd (p : Nat) : sb.length ≤ p → ScanPath num policy mask sb p [] .stopEnd p
  | skip (p : Nat) (q : List Packet) (o : ScanOutcome) (e : Nat) : p < sb.length →
      byteAt sb p ≠ 0xE7 → ScanPath num policy mask sb (p + 1) q o e →
      ScanPath num policy mask sb p q o e
  | short (p : Nat) : p < sb.length → byteAt sb p = 0xE7 → sb.length - p < 72 →
      ScanPath num policy mask sb p [] .stopShort p
  | accept (p : Nat) (pkt : Packet) (q : List Packet) (o : ScanOutcome) (e : Nat) :
      byteAt sb p = 0xE7 → 72 ≤ sb.length - p →
      accepts num policy mask (slice sb p 72) = some pkt →
      ScanPath num policy mask sb (p + 72) q o e → ScanPath num policy mask sb p (pkt :: q) o e
  | reject (p : Nat) (q : List Packet) (o : ScanOutcome) (e : Nat) : byteAt sb p = 0xE7 →
      72 ≤ sb.length - p → accepts num policy mask (slice sb p 72) = none →
      ScanPath num policy mask sb (p + 1) q o e → ScanPath num policy mask sb p q o e

section
variable {num : NumRec} {policy : BitVec 2} {mask : BitVec 3} {sb : List Byte} {p e : Nat}
  {q : List Packet} {o : ScanOutcome}

theorem scanFrom_of_path (h : ScanPath num policy mask sb p q o e) :
    ScanFrom num policy mask sb p q := by
  induction h with
  | atEnd p h => exact .atEnd p h
  | skip p q o e h hb _ ih => exact .skip p q h hb ih
  | short p h hb hl => exact .short p h hb hl
  | accept p pkt q o e hb hl ha _ ih => exact .accept p pkt q hb hl ha ih
  | reject p q o e hb hl ha _ ih => exact .reject p q hb hl ha ih

theorem exists_path_of_scanFrom (h : ScanFrom num policy mask sb p q) :
    ∃ o e, ScanPath num policy mask sb p q o e := by
  induction h with
  | atEnd p h => exact ⟨_, _, .atEnd p h⟩
  | skip p q h hb _ ih => obtain ⟨o, e, h'⟩ := ih; exact ⟨o, e, .skip p q o e h hb h'⟩
  | short p h hb hl => exact ⟨_, _, .short p h hb hl⟩
  | accept p pkt q hb hl ha _ ih =>
    obtain ⟨o, e, h'⟩ := ih; exact ⟨o, e, .accept p pkt q o e hb hl ha h'⟩
  | reject p q hb hl ha _ ih => obtain ⟨o, e, h'⟩ := ih; exact ⟨o, e, .reject p q o e hb hl ha h'⟩

/-- Every position has a run: each step but the last comes closer to the end. -/
theorem exists_path (num : NumRec) (policy : BitVec 2) (mask : BitVec 3) (sb : List Byte) (p : Nat) :
    ∃ q o e, ScanPath num policy mask sb p q o e := by
  by_cases hend : sb.length ≤ p
  · exact ⟨_, _, _, .atEnd p hend⟩
  by_cases hsync : byteAt sb p = 0xE7
  · by_cases hshort : sb.length - p < 72
    · exact ⟨_, _, _, .short p (Nat.not_le.1 hend) hsync hshort⟩
    · have hl := Nat.not_lt.1 hshort
      cases ha : accepts num policy mask (slice sb p 72) with
      | some pkt =>
        obtain ⟨q, o, e, h⟩ := exists_path num policy mask sb (p + 72)
        exact ⟨_, _, _, .accept p pkt q o e hsync hl ha h⟩
      | none =>
        obtain ⟨q, o, e, h⟩ := exists_path num policy mask sb (p + 1)
        exact ⟨_, _, _, .reject p q o e hsync hl ha h⟩
  · obtain ⟨q, o, e, h⟩ := exists_path num policy mask sb (p + 1)
    exact ⟨_, _, _, .skip p q o e (Nat.not_le.1 hend) hsync h⟩
termination_by sb.length - p
decreasing_by all_goals omega

/-- One turn of `scanLoop`, where the step goes on. -/
theorem scanLoop_succ {fuel p' : Nat} {q q' : List Packet} {o : ScanOutcome}
    (h : scanStepOf num policy mask sb p q = (o, p', q')) (ho : o.stops = false) :
    scanLoop num policy mask sb (fuel + 1) p q = scanLoop num policy mask sb fuel p' q' := by
  simp only [scanLoop, h, ho, Bool.false_eq_true, if_false]

/-- One turn of `scanLoop`, where the step ends the scan. -/
theorem scanLoop_stop {fuel p' : Nat} {q q' : List Packet} {o : ScanOutcome}
    (h : scanStepOf num policy mask sb p q = (o, p', q')) (ho : o.stops = true) :
    scanLoop num policy mask sb (fuel + 1) p q = (o, p', q') := by
  simp only [scanLoop, h, ho, if_true]

/-- `scanLoop` follows the path, with as much fuel as there are bytes left and one more (R215). -/
theorem scanLoop_of_path (h : ScanPath num policy mask sb p q o e) (found : List Packet) {fuel : Nat}
    (hfuel : sb.length - p < fuel) :
    scanLoop num policy mask sb fuel p found = (o, e, found ++ q) := by
  induction h generalizing found fuel with
  | atEnd p hend =>
    obtain ⟨fuel, rfl⟩ := Nat.exists_eq_succ_of_ne_zero (Nat.ne_zero_of_lt hfuel)
    rw [scanLoop_stop (scanStepOf_atEnd found hend) rfl, List.append_nil]
  | skip p q o e hp hb _ ih =>
    obtain ⟨fuel, rfl⟩ := Nat.exists_eq_succ_of_ne_zero (Nat.ne_zero_of_lt hfuel)
    rw [scanLoop_succ (scanStepOf_skip found hp hb) rfl, ih found (by omega)]
  | short p hp hb hl =>
    obtain ⟨fuel, rfl⟩ := Nat.exists_eq_succ_of_ne_zero (Nat.ne_zero_of_lt hfuel)
    rw [scanLoop_stop (scanStepOf_short found hp hb hl) rfl, List.append_nil]
  | accept p pkt q o e hb hl ha _ ih =>
    obtain ⟨fuel, rfl⟩ := Nat.exists_eq_succ_of_ne_zero (Nat.ne_zero_of_lt hfuel)
    rw [scanLoop_succ (scanStepOf_accept found hb hl ha) rfl, ih (found ++ [pkt]) (by omega),
      List.append_assoc, List.singleton_append]
  | reject p q o e hb hl ha _ ih =>
    obtain ⟨fuel, rfl⟩ := Nat.exists_eq_succ_of_ne_zero (Nat.ne_zero_of_lt hfuel)
    rw [scanLoop_succ (scanStepOf_reject found hb hl ha) rfl, ih found (by omega)]

theorem scanAll_of_path (h : ScanPath num policy mask sb 0 q o e) :
    scanAll num policy mask sb = (o, e, q) :=
  scanLoop_of_path h [] (Nat.lt_succ_self _)

/-- `scan_from` has one value (R216). -/
theorem scanFrom_unique {q' : List Packet} (h : ScanFrom num policy mask sb p q)
    (h' : ScanFrom num policy mask sb p q') : q' = q := by
  obtain ⟨o, e, hp⟩ := exists_path_of_scanFrom h
  obtain ⟨o', e', hp'⟩ := exists_path_of_scanFrom h'
  have heq := (scanLoop_of_path hp' [] (Nat.lt_succ_self _)).symm.trans
    (scanLoop_of_path hp [] (Nat.lt_succ_self _))
  exact congrArg (fun r => r.2.2) heq

/-- A path moves 72 bytes for each packet, and not past the end. -/
theorem path_bounds (h : ScanPath num policy mask sb p q o e) (hp : p ≤ sb.length) :
    p + 72 * q.length ≤ e ∧ e ≤ sb.length := by
  induction h with
  | atEnd p _ => exact ⟨le_refl p, hp⟩
  | short p _ _ _ => exact ⟨le_refl p, hp⟩
  | skip p q o e h _ _ ih | reject p q o e _ h _ _ ih =>
    have := ih (by omega)
    omega
  | accept p pkt q o e _ h _ _ ih =>
    have := ih (by omega)
    rw [List.length_cons]
    omega

/-- A path ends behind the last byte or at an incomplete candidate. -/
theorem path_end (h : ScanPath num policy mask sb p q o e) :
    (o = .stopEnd ∧ sb.length ≤ e) ∨
      (o = .stopShort ∧ e < sb.length ∧ byteAt sb e = 0xE7 ∧ sb.length - e < 72) := by
  induction h with
  | atEnd p h => exact .inl ⟨rfl, h⟩
  | short p h hb hl => exact .inr ⟨rfl, h, hb, hl⟩
  | skip _ _ _ _ _ _ _ ih => exact ih
  | accept _ _ _ _ _ _ _ _ _ ih => exact ih
  | reject _ _ _ _ _ _ _ _ ih => exact ih

/-- Bytes without a sync byte are skipped. -/
theorem path_skip_range {p' : Nat} (hle : p ≤ p') (hlen : p' ≤ sb.length)
    (hb : ∀ k, p ≤ k → k < p' → byteAt sb k ≠ 0xE7) (h : ScanPath num policy mask sb p' q o e) :
    ScanPath num policy mask sb p q o e := by
  induction hle using Nat.decreasingInduction with
  | self => exact h
  | of_succ k hk ih =>
    exact .skip k q o e (by omega) (hb k le_rfl hk) (ih fun j hj => hb j (by omega))

end

/-! The command (R214). -/

section
variable {s : State} {sb : List Byte}

theorem exec_scan_of_path (hf : s.fault = false) (hb : sbOperand s = some sb)
    (hfits : tooLong s sb.length = false) {q : List Packet} {o : ScanOutcome} {e : Nat}
    (h : ScanPath (numOf s.num) s.navPolicy s.chkRejectMask sb 0 q o e) :
    exec .scan s = .next { s with scanOut := some o, scanPos := e, outq := q, status := 0 } := by
  have hl : s.sbLen = some sb.length := ((sbOperand_eq_some s sb).1 hb).1
  have hx : exec .scan s = execScan s := rfl
  have hnext : exec .scan s = .next (complete (putScan (o, e, q) s)) := by
    simp only [hx, execScan, hl, hfits, Bool.false_eq_true, if_false, hb, Option.map_some,
      runOp_some hf, scanAll_of_path h]
  exact hnext

/-- A scan that is no violation has a stream within `SB_MAX`. -/
theorem not_tooLong_of_exec_scan {t : State} (hf : s.fault = false) (hb : sbOperand s = some sb)
    (hx : exec .scan s = .next t) (ht : t.fault = false) : tooLong s sb.length = false := by
  by_contra hlong
  rw [exec_scan_of_tooLong hf ((sbOperand_eq_some s sb).1 hb).1 (Bool.eq_true_of_not_eq_false hlong)]
    at hx
  cases hx
  cases ht

end

/-- Settles O56: the scan follows a path from 0, and `scan_from` has one value. -/
theorem scanFindsScanFrom : Obligations.ScanFindsScanFrom := by
  intro s sb hf hb hmax
  obtain ⟨q, o, e, h⟩ := exists_path (numOf s.num) s.navPolicy s.chkRejectMask sb 0
  exact ⟨o, e, q, exec_scan_of_path hf hb ((tooLong_eq_false_iff s _).2 hmax) h, scanFrom_of_path h,
    fun _ h' => scanFrom_unique (scanFrom_of_path h) h'⟩

/-- Settles O57: the bounds and the end of the path. -/
theorem scanEndsWhereItStops : Obligations.ScanEndsWhereItStops := by
  intro s t sb hf hb hx ht
  obtain ⟨q, o, e, h⟩ := exists_path (numOf s.num) s.navPolicy s.chkRejectMask sb 0
  rw [exec_scan_of_path hf hb (not_tooLong_of_exec_scan hf hb hx ht) h] at hx
  cases hx
  obtain ⟨hlow, hhigh⟩ := path_bounds h (Nat.zero_le _)
  refine ⟨by simpa using hlow, hhigh, rfl, ?_⟩
  rcases path_end h with ⟨rfl, hge⟩ | ⟨rfl, hstop⟩
  · exact .inl ⟨rfl, le_antisymm hhigh hge⟩
  · exact .inr ⟨rfl, hstop⟩

/-! The streams of R217. -/

/-- An accepted window begins with the sync byte. -/
theorem byteAt_sync_of_accepts {num : NumRec} {policy : BitVec 2} {mask : BitVec 3} {w : List Byte}
    {pkt : Packet} (h : accepts num policy mask w = some pkt) : byteAt w 0 = 0xE7 := by
  by_contra h0
  have hd := ((accepts_eq_some_iff num policy mask w pkt).1 h).1
  rw [pktDecode_notSync num policy le_rfl h0] at hd
  cases hd

theorem byteAt_append_right (x y : List Byte) {k : Nat} (h : x.length ≤ k) :
    byteAt (x ++ y) k = byteAt y (k - x.length) := by
  rw [byteAt_eq, byteAt_eq, List.getElem?_append_right h]

theorem byteAt_append_left (x y : List Byte) {k : Nat} (h : k < x.length) :
    byteAt (x ++ y) k = byteAt x k := by
  rw [byteAt_eq, byteAt_eq, List.getElem?_append_left h]

theorem byteAt_mem {x : List Byte} {k : Nat} (h : k < x.length) : byteAt x k ∈ x := by
  simp [byteAt_eq, h]

section
variable {num : NumRec} {policy : BitVec 2} {mask : BitVec 3} {q : List Packet} {o : ScanOutcome}
  {e : Nat}

/-- An accepted packet at the position of a path's start is found. -/
theorem path_of_accepted {pre w post : List Byte} {pkt : Packet} (hw : w.length = 72)
    (ha : accepts num policy mask w = some pkt)
    (h : ScanPath num policy mask (pre ++ w ++ post) (pre.length + 72) q o e) :
    ScanPath num policy mask (pre ++ w ++ post) pre.length (pkt :: q) o e := by
  have hslice : slice (pre ++ w ++ post) pre.length 72 = w := by
    rw [List.append_assoc, slice_append_right _ _ _ le_rfl, Nat.sub_self,
      slice_append_left _ _ (by omega), ← hw, slice_all]
  have hsync : byteAt (pre ++ w ++ post) pre.length = 0xE7 := by
    rw [List.append_assoc, byteAt_append_right _ _ le_rfl, Nat.sub_self,
      byteAt_append_left _ _ (by omega), byteAt_sync_of_accepts ha]
  have hlen : (pre ++ w ++ post).length = pre.length + 72 + post.length := by
    rw [List.length_append, List.length_append, hw]
  exact .accept _ pkt q o e hsync (by omega) (by rw [hslice, ha]) h

/-- The path over accepted packets with no gaps. -/
theorem path_of_packets (pre : List Byte) (found : List (List Byte × Packet))
    (h : ∀ f ∈ found, f.1.length = 72 ∧ accepts num policy mask f.1 = some f.2) :
    ScanPath num policy mask (pre ++ (found.map Prod.fst).flatten) pre.length (found.map Prod.snd)
      .stopEnd (pre.length + 72 * found.length) := by
  induction found generalizing pre with
  | nil => exact .atEnd _ (by simp)
  | cons f rest ih =>
    obtain ⟨hw, ha⟩ := h f List.mem_cons_self
    have hrest := ih (pre ++ f.1) fun g hg => h g (List.mem_cons_of_mem _ hg)
    have hlen : (pre ++ f.1).length = pre.length + 72 := by rw [List.length_append, hw]
    have hend : pre.length + 72 + 72 * rest.length = pre.length + 72 * (f :: rest).length := by
      rw [List.length_cons]; omega
    rw [hlen, hend] at hrest
    rw [List.map_cons, List.flatten_cons, ← List.append_assoc]
    exact path_of_accepted hw ha hrest

/-- The path over one accepted packet between bytes without a sync byte. -/
theorem path_of_one_packet {before w after : List Byte} {pkt : Packet}
    (hbefore : ∀ b ∈ before, b ≠ 0xE7) (hafter : ∀ b ∈ after, b ≠ 0xE7) (hw : w.length = 72)
    (ha : accepts num policy mask w = some pkt) :
    ScanPath num policy mask (before ++ w ++ after) 0 [pkt] .stopEnd
      (before.length + 72 + after.length) := by
  have hlen : (before ++ w ++ after).length = before.length + 72 + after.length := by
    rw [List.length_append, List.length_append, hw]
  have hbw : (before ++ w).length = before.length + 72 := by rw [List.length_append, hw]
  refine path_skip_range (Nat.zero_le before.length) (by omega) (fun k _ hk => ?_)
    (path_of_accepted hw ha (path_skip_range (Nat.le_add_right _ after.length) hlen.ge
      (fun k hk hk' => ?_) (.atEnd _ hlen.le)))
  · rw [List.append_assoc, byteAt_append_left _ _ hk]
    exact hbefore _ (byteAt_mem hk)
  · rw [byteAt_append_right _ _ (by omega)]
    exact hafter _ (byteAt_mem (by omega))

end

/-- Settles O58: the path over the packets from offset 0. -/
theorem scanOfConcatenatedPackets : Obligations.ScanOfConcatenatedPackets := by
  intro s found hf h hb hmax
  have hpath : ScanPath (numOf s.num) s.navPolicy s.chkRejectMask (found.map Prod.fst).flatten 0
      (found.map Prod.snd) .stopEnd (72 * found.length) := by
    simpa using path_of_packets [] found h
  have hlen : (found.map Prod.fst).flatten.length ≤ 72 * found.length := by
    rcases path_end hpath with ⟨-, hle⟩ | ⟨hstop, -⟩
    · exact hle
    · cases hstop
  exact exec_scan_of_path hf hb
    ((tooLong_eq_false_iff s _).2 fun max hm => hlen.trans (hmax max hm)) hpath

/-- Settles O59: the bytes around the packet are skipped. -/
theorem scanSeeksOnePacket : Obligations.ScanSeeksOnePacket := by
  intro s before w after pkt hf hbefore hafter hw ha hb hmax
  have hlen : (before ++ w ++ after).length = before.length + 72 + after.length := by
    rw [List.length_append, List.length_append, hw]
  exact exec_scan_of_path hf hb ((tooLong_eq_false_iff s _).2 (hlen ▸ hmax))
    (path_of_one_packet hbefore hafter hw ha)

end Sys2Proof
end

section
/-! The statements about the conversions of the reference numerics, and about its products and quotients
where an operand is not finite or the divisor is zero. -/

open Sys2Proof.Machine

namespace Sys2Proof

/-! Signs and magnitudes. -/

/-- The sign of a pattern as a number. -/
def signVal (neg : Bool) : ℚ := if neg then -1 else 1

@[simp] theorem abs_signVal (neg : Bool) : |signVal neg| = 1 := by cases neg <;> simp [signVal]

theorem signVal_xor (a b : Bool) : signVal (a ^^ b) = signVal a * signVal b := by
  cases a <;> cases b <;> simp [signVal]

/-- The magnitude of a finite pattern as a number. -/
def absVal (x : F32) : ℚ := (f32Mag x : ℚ) / 2 ^ 149

theorem absVal_nonneg (x : F32) : 0 ≤ absVal x := by unfold absVal; positivity

theorem f32Val_eq_signVal_mul (x : F32) : f32Val x = signVal (f32Neg x) * absVal x := rfl

theorem abs_f32Val (x : F32) : |f32Val x| = absVal x := by
  rw [f32Val_eq_signVal_mul, abs_mul, abs_signVal, one_mul, abs_of_nonneg (absVal_nonneg x)]

/-! `rint`: nearest, ties away from zero (D8). -/

/-- What `roundHalfAway` is, told by the numbers below it. -/
theorem le_roundHalfAway_iff (d : F32) (k : Nat) :
    k ≤ roundHalfAway d ↔ (k : ℚ) - 1 / 2 ≤ absVal d := by
  rw [roundHalfAway, Nat.le_div_iff_mul_le (by positivity), absVal, le_div_iff₀ (by positivity),
    ← Nat.cast_le (α := ℚ)]
  push_cast
  constructor <;> intro h <;> linarith

theorem roundHalfAway_bounds (d : F32) :
    (roundHalfAway d : ℚ) - 1 / 2 ≤ absVal d ∧ absVal d < roundHalfAway d + 1 / 2 := by
  refine ⟨(le_roundHalfAway_iff d _).1 le_rfl, ?_⟩
  have h := mt (le_roundHalfAway_iff d (roundHalfAway d + 1)).2 (by omega)
  push_cast at h
  linarith

theorem refRint_of_not_finite {d : F32} (h : f32IsFinite d = false) : refRint d = none := by
  simp [refRint, h]

theorem refRint_of_neg {d : F32} (hf : f32IsFinite d = true) (hn : f32Neg d = true) :
    refRint d =
      if roundHalfAway d ≤ 2 ^ 31 then some (BitVec.ofInt 32 (-(roundHalfAway d : Int))) else none := by
  simp [refRint, hf, hn]

theorem refRint_of_pos {d : F32} (hf : f32IsFinite d = true) (hn : f32Neg d = false) :
    refRint d =
      if roundHalfAway d < 2 ^ 31 then some (BitVec.ofNat 32 (roundHalfAway d)) else none := by
  simp [refRint, hf, hn]

/-- The answer is the rounded magnitude with the operand's sign. -/
theorem toInt_of_refRint {d : F32} {n : I32} (hf : f32IsFinite d = true) (h : refRint d = some n) :
    (n.toInt : ℚ) = signVal (f32Neg d) * roundHalfAway d := by
  cases hn : f32Neg d with
  | true =>
    rw [refRint_of_neg hf hn, Option.ite_none_right_eq_some] at h
    obtain ⟨hle, heq⟩ := h
    obtain rfl := Option.some.inj heq
    rw [BitVec.toInt_ofInt_eq_self (by norm_num) (by omega) (by omega)]
    simp [signVal]
  | false =>
    rw [refRint_of_pos hf hn, Option.ite_none_right_eq_some] at h
    obtain ⟨hlt, heq⟩ := h
    obtain rfl := Option.some.inj heq
    rw [← BitVec.ofInt_natCast, BitVec.toInt_ofInt_eq_self (by norm_num) (by omega) (by omega)]
    simp [signVal]

/-- `OUT` exactly outside the 32-bit range, by the sign. -/
theorem refRint_eq_none_iff {d : F32} (hf : f32IsFinite d = true) :
    refRint d = none ↔ f32Val d ≤ -2 ^ 31 - 1 / 2 ∨ 2 ^ 31 - 1 / 2 ≤ f32Val d := by
  have hpos := absVal_nonneg d
  rw [f32Val_eq_signVal_mul]
  cases hn : f32Neg d with
  | true =>
    have hnone : refRint d = none ↔ 2 ^ 31 + 1 ≤ roundHalfAway d := by
      simp only [refRint_of_neg hf hn, ite_eq_right_iff, reduceCtorEq, imp_false, not_le]
      exact Nat.lt_iff_add_one_le
    rw [hnone, le_roundHalfAway_iff, signVal, if_pos rfl]
    push_cast
    constructor
    · intro h; left; linarith
    · rintro (h | h) <;> linarith
  | false =>
    have hnone : refRint d = none ↔ 2 ^ 31 ≤ roundHalfAway d := by
      simp only [refRint_of_pos hf hn, ite_eq_right_iff, reduceCtorEq, imp_false, not_lt]
    rw [hnone, le_roundHalfAway_iff, signVal, if_neg Bool.false_ne_true]
    push_cast
    constructor
    · intro h; right; linarith
    · rintro (h | h) <;> linarith

/-- The distance of the answer is that of the magnitude from its rounding. -/
theorem abs_sub_toInt_of_refRint {d : F32} {n : I32} (hf : f32IsFinite d = true)
    (h : refRint d = some n) : |f32Val d - n.toInt| = |absVal d - roundHalfAway d| := by
  rw [f32Val_eq_signVal_mul, toInt_of_refRint hf h, ← mul_sub, abs_mul, abs_signVal, one_mul]

/-- Settles O24: the answer of `rint` is the rounded magnitude with the sign, and `i2f` is exact. -/
theorem referenceConversionsRound : Obligations.ReferenceConversionsRound := by
  refine ⟨fun d n hf h => ⟨?nearest, fun htie => ?away⟩, fun d => ?out, fun n h => refI2f_exact h⟩
  case nearest =>
    obtain ⟨hlow, hhigh⟩ := roundHalfAway_bounds d
    rw [abs_sub_toInt_of_refRint hf h, abs_le]
    constructor <;> linarith
  case away =>
    obtain ⟨hlow, hhigh⟩ := roundHalfAway_bounds d
    rw [abs_sub_toInt_of_refRint hf h, abs_eq (by norm_num)] at htie
    rw [abs_f32Val, toInt_of_refRint hf h, abs_mul, abs_signVal, one_mul, Nat.abs_cast]
    rcases htie with htie | htie <;> linarith
  case out =>
    cases hf : f32IsFinite d with
    | false => simp [refRint_of_not_finite hf]
    | true => simp [refRint_eq_none_iff hf]

/-! The classes of patterns. -/

theorem f32IsInf_iff (x : F32) : f32IsInf x = true ↔ f32Exp x = 255 ∧ f32Frac x = 0 := by
  simp [f32IsInf]

theorem not_nan_of_inf {x : F32} (h : f32IsInf x = true) : f32IsNaN x = false := by
  simp [f32IsNaN, ((f32IsInf_iff x).1 h).2]

theorem not_finite_of_inf {x : F32} (h : f32IsInf x = true) : f32IsFinite x = false := by
  simp [f32IsFinite, ((f32IsInf_iff x).1 h).1]

theorem f32IsNaN_f32NaN (a b : F32) : f32IsNaN (f32NaN a b) = true := by
  simp only [f32NaN]
  split
  next h => exact h
  next => decide

/-- The infinity of a sign. -/
theorem f32Pack_inf (neg : Bool) :
    f32IsInf (f32Pack neg (255 * 2 ^ 23)) = true ∧ f32Neg (f32Pack neg (255 * 2 ^ 23)) = neg := by
  cases neg <;> decide

/-- The zero of a sign. -/
theorem f32Pack_zero (neg : Bool) :
    f32IsFinite (f32Pack neg 0) = true ∧ f32Val (f32Pack neg 0) = 0 ∧ f32Neg (f32Pack neg 0) = neg := by
  rw [f32Val_eq_zero]
  cases neg <;> decide

/-! The branches of the product and the quotient. -/

section
variable {a b : F32}

theorem refMul_of_nan (h : f32IsNaN a = true ∨ f32IsNaN b = true) : refMul a b = f32NaN a b := by
  simp only [refMul, Bool.or_eq_true, if_pos h]

theorem refDiv_of_nan (h : f32IsNaN a = true ∨ f32IsNaN b = true) : refDiv a b = f32NaN a b := by
  simp only [refDiv, Bool.or_eq_true, if_pos h]

theorem refMul_of_finite (ha : f32IsFinite a = true) (hb : f32IsFinite b = true) :
    refMul a b = f32Pack (f32Neg a ^^ f32Neg b) (roundMag (f32Mag a * f32Mag b) (2 ^ 149)) := by
  simp only [refMul, not_nan_of_finite ha, not_nan_of_finite hb, not_inf_of_finite ha,
    not_inf_of_finite hb, Bool.or_self, Bool.false_eq_true, if_false]

theorem refDiv_of_finite (ha : f32IsFinite a = true) (hb : f32IsFinite b = true) (h0 : f32Val b ≠ 0) :
    refDiv a b = f32Pack (f32Neg a ^^ f32Neg b) (roundMag (f32Mag a * 2 ^ 149) (f32Mag b)) := by
  simp only [refDiv, not_nan_of_finite ha, not_nan_of_finite hb, not_inf_of_finite ha,
    not_inf_of_finite hb, Bool.or_self, Bool.false_eq_true, if_false, mt (f32Val_eq_zero b).2 h0]

theorem refMul_inf_finite (ha : f32IsInf a = true) (hb : f32IsFinite b = true) (h0 : f32Val b ≠ 0) :
    refMul a b = f32Pack (f32Neg a ^^ f32Neg b) (255 * 2 ^ 23) := by
  simp [refMul, not_nan_of_inf ha, not_nan_of_finite hb, ha, hb, mt (f32Val_eq_zero b).2 h0]

theorem refMul_finite_inf (ha : f32IsInf a = true) (hb : f32IsFinite b = true) (h0 : f32Val b ≠ 0) :
    refMul b a = f32Pack (f32Neg a ^^ f32Neg b) (255 * 2 ^ 23) := by
  simp [refMul, not_nan_of_inf ha, not_nan_of_finite hb, ha, not_inf_of_finite hb,
    mt (f32Val_eq_zero b).2 h0, Bool.xor_comm (f32Neg b)]

theorem refMul_inf_zero (ha : f32IsInf a = true) (hb : f32IsFinite b = true) (h0 : f32Val b = 0) :
    refMul a b = f32NaN a b := by
  simp [refMul, not_nan_of_inf ha, not_nan_of_finite hb, ha, hb, (f32Val_eq_zero b).1 h0]

theorem refMul_zero_inf (ha : f32IsInf a = true) (hb : f32IsFinite b = true) (h0 : f32Val b = 0) :
    refMul b a = f32NaN b a := by
  simp [refMul, not_nan_of_inf ha, not_nan_of_finite hb, ha, not_inf_of_finite hb,
    (f32Val_eq_zero b).1 h0]

theorem refMul_inf_inf (ha : f32IsInf a = true) (hb : f32IsInf b = true) :
    refMul a b = f32Pack (f32Neg a ^^ f32Neg b) (255 * 2 ^ 23) := by
  simp [refMul, not_nan_of_inf ha, not_nan_of_inf hb, ha, not_finite_of_inf hb]

theorem refDiv_inf_inf (ha : f32IsInf a = true) (hb : f32IsInf b = true) :
    refDiv a b = f32NaN a b := by
  simp [refDiv, not_nan_of_inf ha, not_nan_of_inf hb, ha, hb]

theorem refDiv_inf_finite (ha : f32IsInf a = true) (hb : f32IsFinite b = true) :
    refDiv a b = f32Pack (f32Neg a ^^ f32Neg b) (255 * 2 ^ 23) := by
  simp [refDiv, not_nan_of_inf ha, not_nan_of_finite hb, ha, not_inf_of_finite hb]

theorem refDiv_finite_inf (ha : f32IsFinite a = true) (hb : f32IsInf b = true) :
    refDiv a b = f32Pack (f32Neg a ^^ f32Neg b) 0 := by
  simp [refDiv, not_nan_of_finite ha, not_nan_of_inf hb, not_inf_of_finite ha, hb]

theorem refDiv_by_zero (ha : f32IsFinite a = true) (ha0 : f32Val a ≠ 0) (hb : f32IsFinite b = true)
    (hb0 : f32Val b = 0) : refDiv a b = f32Pack (f32Neg a ^^ f32Neg b) (255 * 2 ^ 23) := by
  simp [refDiv, not_nan_of_finite ha, not_nan_of_finite hb, not_inf_of_finite ha, not_inf_of_finite hb,
    (f32Val_eq_zero b).1 hb0, mt (f32Val_eq_zero a).2 ha0]

theorem refDiv_zero_by_zero (ha : f32IsFinite a = true) (ha0 : f32Val a = 0)
    (hb : f32IsFinite b = true) (hb0 : f32Val b = 0) : refDiv a b = f32NaN a b := by
  simp [refDiv, not_nan_of_finite ha, not_nan_of_finite hb, not_inf_of_finite ha, not_inf_of_finite hb,
    (f32Val_eq_zero b).1 hb0, (f32Val_eq_zero a).1 ha0]

end

/-- Settles O60: the branches of the two operations, each a NaN, an infinity or a zero of a sign. -/
theorem referenceArithmeticOfSpecialOperands : Obligations.ReferenceArithmeticOfSpecialOperands := by
  refine fun a b => ⟨fun h => ?nan, fun ha hb h0 => ?infTimesFinite, fun ha hb h0 => ?infTimesZero,
    fun ha hb => ?infInf, fun ha hb => ?infByFinite, fun ha hb => ?finiteByInf,
    fun ha ha0 hb hb0 => ?byZero, fun ha ha0 hb hb0 => ?zeroByZero⟩
  case nan => rw [refMul_of_nan h, refDiv_of_nan h]; exact ⟨f32IsNaN_f32NaN a b, f32IsNaN_f32NaN a b⟩
  case infTimesFinite =>
    rw [refMul_inf_finite ha hb h0, refMul_finite_inf ha hb h0]
    obtain ⟨hinf, hneg⟩ := f32Pack_inf (f32Neg a ^^ f32Neg b)
    exact ⟨hinf, hneg, hinf, hneg⟩
  case infTimesZero =>
    rw [refMul_inf_zero ha hb h0, refMul_zero_inf ha hb h0]
    exact ⟨f32IsNaN_f32NaN a b, f32IsNaN_f32NaN b a⟩
  case infInf =>
    rw [refMul_inf_inf ha hb, refDiv_inf_inf ha hb]
    obtain ⟨hinf, hneg⟩ := f32Pack_inf (f32Neg a ^^ f32Neg b)
    exact ⟨hinf, hneg, f32IsNaN_f32NaN a b⟩
  case infByFinite => rw [refDiv_inf_finite ha hb]; exact f32Pack_inf _
  case finiteByInf => rw [refDiv_finite_inf ha hb]; exact f32Pack_zero _
  case byZero => rw [refDiv_by_zero ha ha0 hb hb0]; exact f32Pack_inf _
  case zeroByZero => rw [refDiv_zero_by_zero ha ha0 hb hb0]; exact f32IsNaN_f32NaN a b

end Sys2Proof
end

section
/-! The statement about the products and quotients of finite operands (R13): one rounding of the exact
magnitude, which is nearest with ties to even.

A magnitude is counted in units of 2^-149. `roundMag n d` takes the exact `n / d` to a significand times
`2 ^ roundShift n d`; that grid holds every value as large as the exact one, and the values below it are
farther away than a point of the grid. -/

open Sys2Proof.Machine

namespace Sys2Proof

/-! The nearest natural number. -/

/-- `rne` is within one half, and an even number at one half. -/
theorem rne_half (n : Nat) {d : Nat} (hd : 0 < d) :
    |(rne n d : ℚ) - n / d| ≤ 1 / 2 ∧ (|(rne n d : ℚ) - n / d| = 1 / 2 → rne n d % 2 = 0) := by
  have hd' : (0 : ℚ) < d := Nat.cast_pos.2 hd
  have hn : (n : ℚ) / d = (n / d : Nat) + (n % d : Nat) / d := by
    rw [eq_comm, ← eq_sub_iff_add_eq', div_eq_iff hd'.ne', sub_mul, div_mul_cancel₀ _ hd'.ne']
    have h : (n : ℚ) = (n / d : Nat) * d + (n % d : Nat) := by exact_mod_cast (Nat.div_add_mod' n d).symm
    linarith
  have hr0 : (0 : ℚ) ≤ (n % d : Nat) / d := by positivity
  have hr1 : ((n % d : Nat) : ℚ) / d < 1 := (div_lt_one hd').2 (Nat.cast_lt.2 (Nat.mod_lt n hd))
  rw [hn]
  simp only [rne]
  split_ifs with hlow hhigh heven
  · have hlow' : ((n % d : Nat) : ℚ) / d < 1 / 2 := by
      rw [div_lt_div_iff₀ hd' two_pos]
      exact_mod_cast (by omega : n % d * 2 < 1 * d)
    rw [sub_add_cancel_left, abs_neg, abs_of_nonneg hr0]
    exact ⟨hlow'.le, fun h => absurd h hlow'.ne⟩
  · have hhigh' : 1 / 2 < ((n % d : Nat) : ℚ) / d := by
      rw [div_lt_div_iff₀ two_pos hd']
      exact_mod_cast (by omega : 1 * d < n % d * 2)
    rw [Nat.cast_add, Nat.cast_one, add_sub_add_left_eq_sub, abs_of_nonneg (by linarith)]
    exact ⟨by linarith, fun h => absurd h (by linarith)⟩
  · have hhalf : ((n % d : Nat) : ℚ) / d = 1 / 2 := by
      rw [div_eq_div_iff hd'.ne' two_ne_zero]
      exact_mod_cast (by omega : n % d * 2 = 1 * d)
    rw [sub_add_cancel_left, abs_neg, hhalf]
    exact ⟨by norm_num, fun _ => heven⟩
  · have hhalf : ((n % d : Nat) : ℚ) / d = 1 / 2 := by
      rw [div_eq_div_iff hd'.ne' two_ne_zero]
      exact_mod_cast (by omega : n % d * 2 = 1 * d)
    rw [Nat.cast_add, Nat.cast_one, add_sub_add_left_eq_sub, hhalf]
    exact ⟨by norm_num, fun _ => by omega⟩

/-- A point of the grid is no closer to the exact value than the rounded one; at a tie that one is even. -/
theorem rne_nearest (n : Nat) {d : Nat} (hd : 0 < d) (t : Nat) :
    |(rne n d : ℚ) - n / d| ≤ |(t : ℚ) - n / d| ∧
      (|(rne n d : ℚ) - n / d| = |(t : ℚ) - n / d| → t ≠ rne n d → rne n d % 2 = 0) := by
  obtain ⟨hhalf, heven⟩ := rne_half n hd
  by_cases ht : t = rne n d
  · exact ⟨by rw [ht], fun _ hne => absurd ht hne⟩
  · have hone : (1 : ℚ) ≤ |(t : ℚ) - rne n d| := by
      have : (1 : ℤ) ≤ |(t : ℤ) - rne n d| := Int.one_le_abs (by omega)
      exact_mod_cast this
    have htri := abs_sub_le (t : ℚ) (n / d) (rne n d)
    rw [abs_sub_comm ((n : ℚ) / d)] at htri
    exact ⟨by linarith, fun heq _ => heven (by linarith)⟩

/-! The grid that `roundShift` chooses. -/

/-- The exact value in points of the grid is below 2^24, and from 2^23 on where the grid is coarse. -/
theorem roundShift_bounds (n : Nat) {d : Nat} (hd : 0 < d) :
    n < 2 ^ 24 * (d * 2 ^ roundShift n d) ∧
      (roundShift n d = 0 ∨ 2 ^ 23 * (d * 2 ^ roundShift n d) ≤ n) := by
  have hlog : Nat.log2 (n / d) < 24 + roundShift n d := by simp only [roundShift]; omega
  constructor
  · have hlt : n / d < 2 ^ (24 + roundShift n d) :=
      lt_of_lt_of_le Nat.lt_log2_self (Nat.pow_le_pow_right two_pos hlog)
    rw [Nat.div_lt_iff_lt_mul hd, pow_add] at hlt
    calc n < 2 ^ 24 * 2 ^ roundShift n d * d := hlt
      _ = 2 ^ 24 * (d * 2 ^ roundShift n d) := by ring
  · by_cases h0 : roundShift n d = 0
    · exact .inl h0
    · right
      have hlog' : Nat.log2 (n / d) = 23 + roundShift n d := by
        simp only [roundShift] at h0 ⊢; omega
      have hne : n / d ≠ 0 := fun h => by rw [h, Nat.log2_zero] at hlog'; omega
      have hle : 2 ^ (23 + roundShift n d) ≤ n / d := hlog' ▸ Nat.log2_self_le hne
      rw [Nat.le_div_iff_mul_le hd, pow_add] at hle
      calc 2 ^ 23 * (d * 2 ^ roundShift n d) = 2 ^ 23 * 2 ^ roundShift n d * d := by ring
        _ ≤ n := hle

/-- The significand that `roundMag` packs. -/
def roundSig (n d : Nat) : Nat := rne n (d * 2 ^ roundShift n d)

theorem roundMag_eq_min (n d : Nat) :
    roundMag n d = min (roundShift n d * 2 ^ 23 + roundSig n d) (255 * 2 ^ 23) := rfl

section
variable {n d : Nat}

/-- The exact value in points of the grid. -/
def gridVal (n d : Nat) : ℚ := (n : ℚ) / (d * 2 ^ roundShift n d : Nat)

theorem gridVal_mul_pow (n : Nat) (hd : 0 < d) :
    gridVal n d * 2 ^ roundShift n d = (n : ℚ) / d := by
  have hd' : (d : ℚ) ≠ 0 := (Nat.cast_pos.2 hd).ne'
  rw [gridVal, Nat.cast_mul, Nat.cast_pow, Nat.cast_ofNat]
  field_simp

theorem gridVal_lt (n : Nat) (hd : 0 < d) : gridVal n d < 2 ^ 24 := by
  have hpos : 0 < d * 2 ^ roundShift n d := by positivity
  rw [gridVal, div_lt_iff₀ (Nat.cast_pos.2 hpos)]
  exact_mod_cast (roundShift_bounds n hd).1

theorem le_gridVal (n : Nat) (hd : 0 < d) (h : roundShift n d ≠ 0) : 2 ^ 23 ≤ gridVal n d := by
  have hpos : 0 < d * 2 ^ roundShift n d := by positivity
  rw [gridVal, le_div_iff₀ (Nat.cast_pos.2 hpos)]
  exact_mod_cast (roundShift_bounds n hd).2.resolve_left h

theorem roundSig_half (n : Nat) (hd : 0 < d) :
    |(roundSig n d : ℚ) - gridVal n d| ≤ 1 / 2 ∧
      (|(roundSig n d : ℚ) - gridVal n d| = 1 / 2 → roundSig n d % 2 = 0) :=
  rne_half n (by positivity)

theorem roundSig_le (n : Nat) (hd : 0 < d) : roundSig n d ≤ 2 ^ 24 := by
  have h := (abs_le.1 (roundSig_half n hd).1).2
  have hlt := gridVal_lt n hd
  have : (roundSig n d : ℚ) < (2 ^ 24 + 1 : Nat) := by push_cast; linarith
  exact Nat.lt_succ_iff.1 (Nat.cast_lt.1 this)

theorem le_roundSig (n : Nat) (hd : 0 < d) (h : roundShift n d ≠ 0) : 2 ^ 23 ≤ roundSig n d := by
  have h' := (abs_le.1 (roundSig_half n hd).1).1
  have hle := le_gridVal n hd h
  have : ((2 ^ 23 : Nat) : ℚ) < (roundSig n d + 1 : Nat) := by push_cast; linarith
  exact Nat.lt_succ_iff.1 (Nat.cast_lt.1 this)

/-- Half a step below 2^24 the significand carries: the tie goes to the even 2^24. -/
theorem roundSig_lt_iff (n : Nat) (hd : 0 < d) :
    roundSig n d < 2 ^ 24 ↔ gridVal n d < 2 ^ 24 - 1 / 2 := by
  obtain ⟨hhalf, heven⟩ := roundSig_half n hd
  obtain ⟨hlow, hhigh⟩ := abs_le.1 hhalf
  constructor
  · intro hlt
    by_contra hge
    have hcast : (roundSig n d : ℚ) ≤ 2 ^ 24 - 1 := by
      have : ((roundSig n d + 1 : Nat) : ℚ) ≤ (2 ^ 24 : Nat) := Nat.cast_le.2 hlt
      push_cast at this
      linarith
    have htie : |(roundSig n d : ℚ) - gridVal n d| = 1 / 2 := by
      rw [abs_of_neg (by linarith)]; linarith
    have heq : (roundSig n d : ℚ) = (2 ^ 24 - 1 : Nat) := by
      rw [abs_of_neg (by linarith)] at htie
      push_cast
      linarith
    have hodd := heven htie
    rw [Nat.cast_inj.1 heq] at hodd
    exact absurd hodd (by decide)
  · intro hlt
    have : (roundSig n d : ℚ) < (2 ^ 24 : Nat) := by push_cast; linarith
    exact Nat.cast_lt.1 this

/-- Overflow: the packed magnitude is finite exactly below 2^128 - 2^103, half a step past the largest
finite value. -/
theorem roundMag_lt_iff (n : Nat) (hd : 0 < d) :
    roundMag n d < 255 * 2 ^ 23 ↔ (n : ℚ) / d < (2 ^ 25 - 1) * 2 ^ 252 := by
  have hsig := roundSig_le n hd
  have hmin : roundMag n d < 255 * 2 ^ 23 ↔
      roundShift n d * 2 ^ 23 + roundSig n d < 255 * 2 ^ 23 := by
    rw [roundMag_eq_min]; omega
  rw [hmin, ← gridVal_mul_pow n hd]
  rcases lt_trichotomy (roundShift n d) 253 with hk | hk | hk
  · refine iff_of_true (by omega) ?_
    have hpow : (2 : ℚ) ^ roundShift n d ≤ 2 ^ 252 :=
      pow_le_pow_right₀ one_le_two (Nat.lt_succ_iff.1 hk)
    calc gridVal n d * 2 ^ roundShift n d < 2 ^ 24 * 2 ^ roundShift n d :=
          mul_lt_mul_of_pos_right (gridVal_lt n hd) (by positivity)
      _ ≤ 2 ^ 24 * 2 ^ 252 := mul_le_mul_of_nonneg_left hpow (by positivity)
      _ ≤ (2 ^ 25 - 1) * 2 ^ 252 := mul_le_mul_of_nonneg_right (by norm_num) (by positivity)
  · have hpos : (0 : ℚ) < 2 ^ 252 := by positivity
    have hsplit : gridVal n d * 2 ^ 253 = 2 * gridVal n d * 2 ^ 252 := by
      rw [pow_succ (2 : ℚ) 252]; ring
    rw [hk, hsplit, mul_lt_mul_iff_left₀ hpos]
    have hlt : 253 * 2 ^ 23 + roundSig n d < 255 * 2 ^ 23 ↔ roundSig n d < 2 ^ 24 := by omega
    rw [hlt, roundSig_lt_iff n hd]
    constructor <;> intro h <;> linarith
  · have hsig' := le_roundSig n hd (by omega)
    refine iff_of_false (by omega) (not_lt.2 ?_)
    have hpow : (2 : ℚ) ^ 254 ≤ 2 ^ roundShift n d := pow_le_pow_right₀ one_le_two hk
    calc ((2 : ℚ) ^ 25 - 1) * 2 ^ 252 ≤ 2 ^ 25 * 2 ^ 252 :=
          mul_le_mul_of_nonneg_right (by norm_num) (by positivity)
      _ = 2 ^ 23 * 2 ^ 254 := by rw [← pow_add, ← pow_add]
      _ ≤ gridVal n d * 2 ^ roundShift n d :=
          mul_le_mul (le_gridVal n hd (by omega)) hpow (by positivity)
            ((by positivity : (0 : ℚ) ≤ 2 ^ 23).trans (le_gridVal n hd (by omega)))

/-! The magnitude of a packed pattern. -/

/-- A significand of the grid packs to its magnitude; 2^24 carries into the exponent. -/
theorem f32Mag_f32Pack (neg : Bool) {k s : Nat} (hs : s ≤ 2 ^ 24) (hks : k = 0 ∨ 2 ^ 23 ≤ s)
    (hlt : k * 2 ^ 23 + s < 2 ^ 31) : f32Mag (f32Pack neg (k * 2 ^ 23 + s)) = s * 2 ^ k := by
  rw [f32Mag, f32Exp_f32Pack neg hlt, f32Frac_f32Pack neg hlt]
  rcases Nat.lt_or_ge s (2 ^ 23) with hsub | hnorm
  · obtain rfl : k = 0 := hks.resolve_right (by omega)
    rw [if_pos (by omega)]
    omega
  · rw [if_neg (by omega)]
    rcases Nat.lt_or_eq_of_le hs with hlt24 | rfl
    · have hexp : (k * 2 ^ 23 + s) / 2 ^ 23 - 1 = k := by omega
      have hfrac : 2 ^ 23 + (k * 2 ^ 23 + s) % 2 ^ 23 = s := by omega
      rw [hexp, hfrac]
    · have hexp : (k * 2 ^ 23 + 2 ^ 24) / 2 ^ 23 - 1 = k + 1 := by omega
      have hfrac : 2 ^ 23 + (k * 2 ^ 23 + 2 ^ 24) % 2 ^ 23 = 2 ^ 23 := by omega
      rw [hexp, hfrac]
      ring

/-- A finite magnitude is a significand below 2^24 at a power of two. -/
theorem exists_sig_of_f32Mag (c : F32) : ∃ f j, f < 2 ^ 24 ∧ f32Mag c = f * 2 ^ j := by
  have hfrac := f32Frac_lt c
  by_cases h : f32Exp c = 0
  · exact ⟨f32Frac c, 0, by omega, by rw [f32Mag, if_pos h, pow_zero, mul_one]⟩
  · exact ⟨2 ^ 23 + f32Frac c, f32Exp c - 1, by omega, by rw [f32Mag, if_neg h]⟩

/-- No binary32 magnitude is closer to the exact value than the rounded one; at a tie that one's
significand is even. -/
theorem roundSig_nearest (n : Nat) (hd : 0 < d) (c : F32) :
    |(roundSig n d : ℚ) * 2 ^ roundShift n d - n / d| ≤ |(f32Mag c : ℚ) - n / d| ∧
      (|(roundSig n d : ℚ) * 2 ^ roundShift n d - n / d| = |(f32Mag c : ℚ) - n / d| →
        (f32Mag c : ℚ) ≠ roundSig n d * 2 ^ roundShift n d → roundSig n d % 2 = 0) := by
  obtain ⟨f, j, hf, hc⟩ := exists_sig_of_f32Mag c
  have hpow : (0 : ℚ) < 2 ^ roundShift n d := by positivity
  have hscale : ∀ x : ℚ, |x * 2 ^ roundShift n d - n / d| = |x - gridVal n d| * 2 ^ roundShift n d := by
    intro x
    rw [← gridVal_mul_pow n hd, ← sub_mul, abs_mul, abs_of_pos hpow]
  rcases Nat.lt_or_ge j (roundShift n d) with hj | hj
  · -- below the grid: 2^23 points of the grid lie between the magnitude and the exact value
    have hlow : (f32Mag c : ℚ) < (2 ^ 23 : Nat) * 2 ^ roundShift n d := by
      have hlt : f32Mag c < 2 ^ 23 * 2 ^ roundShift n d :=
        calc f32Mag c = f * 2 ^ j := hc
          _ < 2 ^ 24 * 2 ^ j := Nat.mul_lt_mul_of_pos_right hf (by positivity)
          _ = 2 ^ 23 * 2 ^ (j + 1) := by rw [pow_succ]; ring
          _ ≤ 2 ^ 23 * 2 ^ roundShift n d :=
              Nat.mul_le_mul_left _ (Nat.pow_le_pow_right two_pos hj)
      exact_mod_cast hlt
    have hle : ((2 ^ 23 : Nat) : ℚ) * 2 ^ roundShift n d ≤ n / d := by
      rw [← gridVal_mul_pow n hd]
      refine mul_le_mul_of_nonneg_right ?_ hpow.le
      exact_mod_cast le_gridVal n hd (by omega)
    have hgrid : |(roundSig n d : ℚ) - gridVal n d| ≤ |((2 ^ 23 : Nat) : ℚ) - gridVal n d| :=
      (rne_nearest n (by positivity) (2 ^ 23)).1
    have hstrict : |(roundSig n d : ℚ) * 2 ^ roundShift n d - n / d| < |(f32Mag c : ℚ) - n / d| := by
      calc |(roundSig n d : ℚ) * 2 ^ roundShift n d - n / d|
          ≤ |((2 ^ 23 : Nat) : ℚ) * 2 ^ roundShift n d - n / d| := by
            rw [hscale, hscale]; exact mul_le_mul_of_nonneg_right hgrid hpow.le
        _ < |(f32Mag c : ℚ) - n / d| := by
            rw [abs_of_nonpos (sub_nonpos.2 hle), abs_of_neg (sub_neg.2 (hlow.trans_le hle))]
            exact neg_lt_neg (sub_lt_sub_right hlow _)
    exact ⟨hstrict.le, fun heq => absurd heq hstrict.ne⟩
  · -- on the grid
    have hmag : (f32Mag c : ℚ) = (f * 2 ^ (j - roundShift n d) : Nat) * 2 ^ roundShift n d := by
      rw [hc]
      push_cast
      rw [mul_assoc, ← pow_add, Nat.sub_add_cancel hj]
    obtain ⟨hnear, heven⟩ := rne_nearest n (d := d * 2 ^ roundShift n d) (by positivity)
      (f * 2 ^ (j - roundShift n d))
    rw [hmag, hscale, hscale]
    refine ⟨mul_le_mul_of_nonneg_right hnear hpow.le, fun heq hne => heven ?_ fun h => hne ?_⟩
    · exact mul_right_cancel₀ hpow.ne' heq
    · rw [h]; rfl

end

/-! One rounding, with its sign. -/

/-- The distance of a signed value from an exact one of the same sign is that of the magnitudes; with
another sign it is at least that. -/
theorem abs_sub_le_of_signs (x y : ℚ) (hx : 0 ≤ x) (hy : 0 ≤ y) (s t : Bool) :
    |x - y| ≤ |signVal s * x - signVal t * y| := by
  cases s <;> cases t <;> simp only [signVal, if_true, Bool.false_eq_true, if_false, one_mul, neg_mul]
  · exact le_rfl
  · rw [sub_neg_eq_add, abs_of_nonneg (by linarith : 0 ≤ x + y), abs_le]; constructor <;> linarith
  · rw [← neg_add', abs_neg, abs_of_nonneg (by linarith : 0 ≤ x + y), abs_le]; constructor <;> linarith
  · rw [neg_sub_neg, abs_sub_comm]

theorem roundMag_lt_pow (n d : Nat) : roundMag n d < 2 ^ 31 :=
  lt_of_le_of_lt (roundMag_le n d) (by norm_num)

/-- What a packed rounding below the infinity is. -/
theorem f32Pack_roundMag_of_lt (neg : Bool) (n : Nat) {d : Nat} (hd : 0 < d)
    (h : roundMag n d < 255 * 2 ^ 23) :
    f32IsFinite (f32Pack neg (roundMag n d)) = true ∧
      f32Mag (f32Pack neg (roundMag n d)) = roundSig n d * 2 ^ roundShift n d ∧
      f32Frac (f32Pack neg (roundMag n d)) % 2 = roundSig n d % 2 := by
  have heq : roundMag n d = roundShift n d * 2 ^ 23 + roundSig n d := by
    rw [roundMag_eq_min] at h ⊢; omega
  refine ⟨?_, ?_, ?_⟩
  · rw [f32IsFinite_iff, f32Exp_f32Pack neg (roundMag_lt_pow n d)]
    omega
  · have hks : roundShift n d = 0 ∨ 2 ^ 23 ≤ roundSig n d := or_iff_not_imp_left.2 (le_roundSig n hd)
    rw [heq]
    exact f32Mag_f32Pack neg (roundSig_le n hd) hks (heq ▸ roundMag_lt_pow n d)
  · rw [f32Frac_f32Pack neg (roundMag_lt_pow n d)]
    omega

theorem f32Val_zero : f32Val 0 = 0 := (f32Val_eq_zero 0).2 (by decide)

/-- Two values of one magnitude are equal where a tie puts them at one distance: opposite ones that are
not zero are at one distance from zero alone, and zero is closer to that. -/
theorem eq_of_tie {r c : F32} {x : ℚ} (hzero : |f32Val r - x| ≤ |f32Val 0 - x|)
    (hval : |f32Val c| = |f32Val r|) (htie : |f32Val r - x| = |f32Val c - x|) :
    f32Val c = f32Val r := by
  rcases abs_eq_abs.1 hval with h | h
  · exact h
  rw [h] at htie ⊢
  rcases abs_eq_abs.1 htie with htie | htie
  · linarith
  · obtain rfl : x = 0 := by linarith
    rw [f32Val_zero, sub_zero, sub_zero, abs_zero, abs_nonpos_iff] at hzero
    rw [hzero, neg_zero]

/-- The statement for one exact value of magnitude `n / d` units of 2^-149. -/
theorem roundMag_rounds (neg : Bool) (n : Nat) {d : Nat} (hd : 0 < d) {r : F32} {x : ℚ}
    (hr : r = f32Pack neg (roundMag n d)) (hx : x = signVal neg * ((n : ℚ) / d / 2 ^ 149)) :
    f32Neg r = neg ∧ (2 ^ 128 - 2 ^ 103 ≤ |x| → f32IsInf r = true) ∧
      (|x| < 2 ^ 128 - 2 ^ 103 → f32IsFinite r = true ∧ ∀ c : F32, f32IsFinite c = true →
        |f32Val r - x| ≤ |f32Val c - x| ∧
        (|f32Val r - x| = |f32Val c - x| → f32Val c ≠ f32Val r → f32Frac r % 2 = 0)) := by
  subst hr
  have habs : |x| = (n : ℚ) / d / 2 ^ 149 := by
    rw [hx, abs_mul, abs_signVal, one_mul, abs_of_nonneg (by positivity)]
  have hlimit : |x| < 2 ^ 128 - 2 ^ 103 ↔ roundMag n d < 255 * 2 ^ 23 := by
    rw [roundMag_lt_iff n hd, habs, div_lt_iff₀ (by positivity)]
    norm_num
  refine ⟨f32Neg_f32Pack neg (roundMag_lt_pow n d), fun hover => ?_, fun hbelow => ?_⟩
  · have hinf : roundMag n d = 255 * 2 ^ 23 :=
      le_antisymm (roundMag_le n d) (not_lt.1 (mt hlimit.2 (not_lt.2 hover)))
    rw [hinf]
    exact (f32Pack_inf neg).1
  · obtain ⟨hfin, hmag, hfrac⟩ := f32Pack_roundMag_of_lt neg n hd (hlimit.1 hbelow)
    have hneg := f32Neg_f32Pack neg (roundMag_lt_pow n d)
    generalize f32Pack neg (roundMag n d) = r at hfin hmag hfrac hneg ⊢
    have hr : |f32Val r - x| = |(f32Mag r : ℚ) - n / d| / 2 ^ 149 := by
      rw [f32Val_eq_signVal_mul, hneg, hx, ← mul_sub, abs_mul, abs_signVal, one_mul, absVal, ← sub_div,
        abs_div, abs_of_pos (by positivity : (0 : ℚ) < 2 ^ 149)]
    have hc : ∀ c : F32, |(f32Mag c : ℚ) - n / d| / 2 ^ 149 ≤ |f32Val c - x| := by
      intro c
      have h := abs_sub_le_of_signs (absVal c) ((n : ℚ) / d / 2 ^ 149) (absVal_nonneg c) (by positivity)
        (f32Neg c) neg
      rwa [← hx, ← f32Val_eq_signVal_mul, absVal, ← sub_div, abs_div,
        abs_of_pos (by positivity : (0 : ℚ) < 2 ^ 149)] at h
    have hcast : (f32Mag r : ℚ) = roundSig n d * 2 ^ roundShift n d := by exact_mod_cast hmag
    have hgrid : ∀ c : F32, |(f32Mag r : ℚ) - n / d| / 2 ^ 149 ≤ |(f32Mag c : ℚ) - n / d| / 2 ^ 149 :=
      fun c => div_le_div_of_nonneg_right (hcast ▸ (roundSig_nearest n hd c).1) (by positivity)
    have hnear : ∀ c : F32, |f32Val r - x| ≤ |f32Val c - x| := fun c => hr ▸ (hgrid c).trans (hc c)
    refine ⟨hfin, fun c _ => ⟨hnear c, fun htie hne => ?_⟩⟩
    have htie' : |(f32Mag r : ℚ) - n / d| = |(f32Mag c : ℚ) - n / d| := by
      have h := le_antisymm (hgrid c) ((hc c).trans (htie ▸ hr.le))
      exact (div_left_inj' (by positivity)).1 h
    rw [hfrac]
    refine (roundSig_nearest n hd c).2 (hcast ▸ htie') fun hsame => ?_
    have hval : |f32Val c| = |f32Val r| := by
      rw [abs_f32Val, abs_f32Val, absVal, absVal, hsame, hcast]
    exact hne (eq_of_tie (hnear 0) hval htie)

theorem signVal_div_signVal (a b : Bool) : signVal a / signVal b = signVal a * signVal b := by
  cases b <;> simp [signVal, div_neg]

/-- Settles O23: both operations are one rounding of the exact magnitude. -/
theorem referenceArithmeticIsNearest : Obligations.ReferenceArithmeticIsNearest := by
  refine ⟨fun a b ha hb => ?product, fun a b ha hb h0 => ?quotient⟩
  case product =>
    refine roundMag_rounds _ _ (by positivity) (refMul_of_finite ha hb) ?_
    rw [f32Val_eq_signVal_mul, f32Val_eq_signVal_mul, signVal_xor, absVal, absVal]
    push_cast
    ring
  case quotient =>
    have hmag : f32Mag b ≠ 0 := mt (f32Val_eq_zero b).2 h0
    have hmag' : (f32Mag b : ℚ) ≠ 0 := Nat.cast_ne_zero.2 hmag
    refine roundMag_rounds _ _ (Nat.pos_of_ne_zero hmag) (refDiv_of_finite ha hb h0) ?_
    rw [f32Val_eq_signVal_mul, f32Val_eq_signVal_mul, mul_div_mul_comm, signVal_div_signVal, signVal_xor,
      absVal, absVal, Nat.cast_mul, Nat.cast_pow, Nat.cast_ofNat]
    field_simp

end Sys2Proof
end
